-- ==== Sys2Proof/Word.lean ====
section
/-! DEFINITION. The word types of the engine (00_scope.md R8): bytes, 16-bit words, 12-bit memory addresses, register indexes. -/

namespace Sys2Proof

/-- A memory byte, a V register, a timer (REG_BITS, TIMER_BITS of R8). -/
abbrev Byte := BitVec 8

/-- An opcode, I, PC, a stack entry (INSN_BITS, I_BITS, PC_BITS, STACK_BITS of R8). -/
abbrev Word := BitVec 16

/-- A memory address, 0x000 to 0xFFF, and the field NNN (ADDR_BITS of R8, R50, R71). -/
abbrev Addr := BitVec 12

/-- The index of a general register: every value of a 4-bit field names one (R21, R72). -/
abbrev Reg := Fin 16

end Sys2Proof
end

