-- ==== Sys2Proof/Syntax.lean ====
section
/-! DEFINITION. The 35 instruction variants of 30_encoding.md R79, one constructor per row of spec/opcode_table.json, with the
fields that R71 gives them and the rule of each meaning. Fields a variant ignores (R82) are no part of its term. -/

namespace Sys2Proof

/-- One decoded instruction; the comment beside each constructor is its row of R79. -/
inductive Instr where
  /-- 0NNN SYS nnn (R100) -/
  | sys (nnn : Addr)
  /-- 0-E0 CLS (R170) -/
  | cls
  /-- 0-EE RET (R103) -/
  | ret
  /-- 1NNN JP nnn (R101) -/
  | jp (nnn : Addr)
  /-- 2NNN CALL nnn (R102) -/
  | call (nnn : Addr)
  /-- 3XKK SE Vx, kk (R105) -/
  | seImm (x : Reg) (kk : Byte)
  /-- 4XKK SNE Vx, kk (R106) -/
  | sneImm (x : Reg) (kk : Byte)
  /-- 5XY- SE Vx, Vy (R107) -/
  | seReg (x y : Reg)
  /-- 6XKK LD Vx, kk (R120) -/
  | ldImm (x : Reg) (kk : Byte)
  /-- 7XKK ADD Vx, kk (R121) -/
  | addImm (x : Reg) (kk : Byte)
  /-- 8XY0 LD Vx, Vy (R122) -/
  | ldReg (x y : Reg)
  /-- 8XY1 OR Vx, Vy (R123) -/
  | orReg (x y : Reg)
  /-- 8XY2 AND Vx, Vy (R124) -/
  | andReg (x y : Reg)
  /-- 8XY3 XOR Vx, Vy (R125) -/
  | xorReg (x y : Reg)
  /-- 8XY4 ADD Vx, Vy (R126) -/
  | addReg (x y : Reg)
  /-- 8XY5 SUB Vx, Vy (R127) -/
  | subReg (x y : Reg)
  /-- 8XY6 SHR Vx, Vy (R128); y is read only with QUIRK_SHIFT_VY -/
  | shr (x y : Reg)
  /-- 8XY7 SUBN Vx, Vy (R129) -/
  | subn (x y : Reg)
  /-- 8XYE SHL Vx, Vy (R130); y is read only with QUIRK_SHIFT_VY -/
  | shl (x y : Reg)
  /-- 9XY- SNE Vx, Vy (R108) -/
  | sneReg (x y : Reg)
  /-- ANNN LD I, nnn (R150) -/
  | ldI (nnn : Addr)
  /-- BNNN JP V0, nnn (R104) -/
  | jpV0 (nnn : Addr)
  /-- CXKK RND Vx, kk (R131) -/
  | rnd (x : Reg) (kk : Byte)
  /-- DXYN DRW Vx, Vy, n (R171); n is the sprite's height, 0 to 15 -/
  | drw (x y : Reg) (n : Fin 16)
  /-- EX9E SKP Vx (R190) -/
  | skp (x : Reg)
  /-- EXA1 SKNP Vx (R191) -/
  | sknp (x : Reg)
  /-- FX07 LD Vx, DT (R195) -/
  | ldVxDt (x : Reg)
  /-- FX0A LD Vx, K (R193) -/
  | ldVxK (x : Reg)
  /-- FX15 LD DT, Vx (R196) -/
  | ldDtVx (x : Reg)
  /-- FX18 LD ST, Vx (R197) -/
  | ldStVx (x : Reg)
  /-- FX1E ADD I, Vx (R151) -/
  | addI (x : Reg)
  /-- FX29 LD F, Vx (R152) -/
  | ldF (x : Reg)
  /-- FX33 LD B, Vx (R153) -/
  | ldB (x : Reg)
  /-- FX55 LD [I], Vx (R154) -/
  | ldMemVx (x : Reg)
  /-- FX65 LD Vx, [I] (R155) -/
  | ldVxMem (x : Reg)
  deriving DecidableEq, Repr

end Sys2Proof
end

