-- ==== Sys2Proof/WellFormed.lean ====
section
/-! DEFINITION. Which instruction terms have an encoding of their own. Every field's type already holds exactly the values its
bits hold (R71, R72); the one condition left is that of R74 and R79: a word of group 0 with trailing byte 0xE0 or 0xEE is CLS
or RET, so it is no SYS. -/

namespace Sys2Proof

/-- The trailing byte of a 12-bit field NNN (R74). -/
def trailingByte (nnn : Addr) : Byte := nnn.setWidth 8

/-- SYS nnn is an instruction only when the trailing byte is neither CLS's 0xE0 nor RET's 0xEE (R74, R100); every other
constructor is well formed with every operand. -/
def Instr.wellFormed : Instr → Bool
  | .sys nnn => trailingByte nnn != 0xE0#8 && trailingByte nnn != 0xEE#8
  | .cls => true
  | .ret => true
  | .jp _ => true
  | .call _ => true
  | .seImm _ _ => true
  | .sneImm _ _ => true
  | .seReg _ _ => true
  | .ldImm _ _ => true
  | .addImm _ _ => true
  | .ldReg _ _ => true
  | .orReg _ _ => true
  | .andReg _ _ => true
  | .xorReg _ _ => true
  | .addReg _ _ => true
  | .subReg _ _ => true
  | .shr _ _ => true
  | .subn _ _ => true
  | .shl _ _ => true
  | .sneReg _ _ => true
  | .ldI _ => true
  | .jpV0 _ => true
  | .rnd _ _ => true
  | .drw _ _ _ => true
  | .skp _ => true
  | .sknp _ => true
  | .ldVxDt _ => true
  | .ldVxK _ => true
  | .ldDtVx _ => true
  | .ldStVx _ => true
  | .addI _ => true
  | .ldF _ => true
  | .ldB _ => true
  | .ldMemVx _ => true
  | .ldVxMem _ => true

end Sys2Proof
end

