-- ==== Sys2Proof/Decode.lean ====
section
/-! DEFINITION. The decoder of 30_encoding.md section 2 (R73 to R78, total on every word), the decoder of a byte stream, the
encoder from the table of R79, and the mask and match of each row of R79. -/

namespace Sys2Proof

/-- The high nibble op[15:12], the primary opcode (R71). -/
def opGroup (op : Word) : Nat := (op.extractLsb' 12 4).toNat

/-- X = op[11:8] (R71). -/
def opX (op : Word) : Reg := (op.extractLsb' 8 4).toFin

/-- Y = op[7:4] (R71). -/
def opY (op : Word) : Reg := (op.extractLsb' 4 4).toFin

/-- N = op[3:0] (R71). -/
def opN (op : Word) : Fin 16 := (op.extractLsb' 0 4).toFin

/-- KK = op[7:0] (R71). -/
def opKK (op : Word) : Byte := op.extractLsb' 0 8

/-- NNN = op[11:0] (R71). -/
def opNNN (op : Word) : Addr := op.extractLsb' 0 12

/-- What decode answers: one of the 35 variants, or Unassigned with the word (R73, R80). -/
inductive Decoded where
  | variant (i : Instr)
  | unassigned (op : Word)
  deriving DecidableEq, Repr

/-- Group 0, by the trailing byte (R74). -/
def decodeGroup0 (op : Word) : Decoded :=
  match (opKK op).toNat with
  | 0xE0 => .variant .cls
  | 0xEE => .variant .ret
  | _ => .variant (.sys (opNNN op))

/-- Group 8, by the trailing nibble (R75). -/
def decodeGroup8 (op : Word) : Decoded :=
  match (opN op).val with
  | 0x0 => .variant (.ldReg (opX op) (opY op))
  | 0x1 => .variant (.orReg (opX op) (opY op))
  | 0x2 => .variant (.andReg (opX op) (opY op))
  | 0x3 => .variant (.xorReg (opX op) (opY op))
  | 0x4 => .variant (.addReg (opX op) (opY op))
  | 0x5 => .variant (.subReg (opX op) (opY op))
  | 0x6 => .variant (.shr (opX op) (opY op))
  | 0x7 => .variant (.subn (opX op) (opY op))
  | 0xE => .variant (.shl (opX op) (opY op))
  | _ => .unassigned op

/-- Group E, by the trailing byte (R76). -/
def decodeGroupE (op : Word) : Decoded :=
  match (opKK op).toNat with
  | 0x9E => .variant (.skp (opX op))
  | 0xA1 => .variant (.sknp (opX op))
  | _ => .unassigned op

/-- Group F, by the trailing byte (R77). -/
def decodeGroupF (op : Word) : Decoded :=
  match (opKK op).toNat with
  | 0x07 => .variant (.ldVxDt (opX op))
  | 0x0A => .variant (.ldVxK (opX op))
  | 0x15 => .variant (.ldDtVx (opX op))
  | 0x18 => .variant (.ldStVx (opX op))
  | 0x1E => .variant (.addI (opX op))
  | 0x29 => .variant (.ldF (opX op))
  | 0x33 => .variant (.ldB (opX op))
  | 0x55 => .variant (.ldMemVx (opX op))
  | 0x65 => .variant (.ldVxMem (opX op))
  | _ => .unassigned op

/-- Decode, by the high nibble and, in groups 0, 8, E and F, by the trailing byte or nibble (R73, R78). A nibble is at most
0xF, so the last line is never reached. -/
def decode (op : Word) : Decoded :=
  match opGroup op with
  | 0x0 => decodeGroup0 op
  | 0x1 => .variant (.jp (opNNN op))
  | 0x2 => .variant (.call (opNNN op))
  | 0x3 => .variant (.seImm (opX op) (opKK op))
  | 0x4 => .variant (.sneImm (opX op) (opKK op))
  | 0x5 => .variant (.seReg (opX op) (opY op))
  | 0x6 => .variant (.ldImm (opX op) (opKK op))
  | 0x7 => .variant (.addImm (opX op) (opKK op))
  | 0x8 => decodeGroup8 op
  | 0x9 => .variant (.sneReg (opX op) (opY op))
  | 0xA => .variant (.ldI (opNNN op))
  | 0xB => .variant (.jpV0 (opNNN op))
  | 0xC => .variant (.rnd (opX op) (opKK op))
  | 0xD => .variant (.drw (opX op) (opY op) (opN op))
  | 0xE => decodeGroupE op
  | 0xF => decodeGroupF op
  | _ => .unassigned op

/-- Two bytes as one word, the first the more significant (R51, R52). -/
def wordOfBytes (hi lo : Byte) : Word := hi ++ lo

/-- The byte of a word at the lower address: the high one (R51). -/
def highByte (op : Word) : Byte := op.extractLsb' 8 8

/-- The byte of a word at the higher address: the low one (R51). -/
def lowByte (op : Word) : Byte := op.extractLsb' 0 8

/-- Why a byte stream gives no instruction. -/
inductive Rejection where
  /-- the word is Unassigned (R80); executing it is no error (R97) -/
  | unassigned (op : Word)
  /-- fewer than the two bytes an instruction takes (R70) -/
  | truncated
  deriving DecidableEq, Repr

/-- The decoder on bytes: exactly two are consumed (R70), and the rest is handed back. -/
def decodeBytes : List Byte → Except Rejection (Instr × List Byte)
  | hi :: lo :: rest =>
    match decode (wordOfBytes hi lo) with
    | .variant i => .ok (i, rest)
    | .unassigned op => .error (.unassigned op)
  | _ => .error .truncated

/-- The bytes of a word in the order memory holds them (R51). -/
def bytesOfWord (op : Word) : List Byte := [highByte op, lowByte op]

/-- The instruction the decoder reads from a word given as spec/opcode_table.json numbers its bits (the host's question). -/
def decodeTableWord (nbits w : Nat) : Option Instr :=
  match decodeBytes (bytesOfWord (BitVec.ofNat 16 (w % 2 ^ nbits))) with
  | .ok (i, _) => some i
  | .error _ => none

/-- A register index or a height as the four bits of its field (R71). -/
def nibble (x : Fin 16) : BitVec 4 := BitVec.ofFin x

/-- Format F_NNN (R71). -/
def encodeNNN (group : BitVec 4) (nnn : Addr) : Word := group ++ nnn

/-- Formats F_XKK and F_XFN (R71): kk is the byte immediate or the function byte. -/
def encodeXKK (group : BitVec 4) (x : Reg) (kk : Byte) : Word := group ++ nibble x ++ kk

/-- Format F_XYN (R71): n is the function nibble, the height, or 0 where the nibble is ignored (R82). -/
def encodeXYN (group : BitVec 4) (x y : Reg) (n : Fin 16) : Word := group ++ nibble x ++ nibble y ++ nibble n

/-- The word of an instruction, from the rows of R79; an ignored field is 0 (R82). -/
def encode : Instr → Word
  | .sys nnn => encodeNNN 0x0#4 nnn
  | .cls => 0x00E0#16
  | .ret => 0x00EE#16
  | .jp nnn => encodeNNN 0x1#4 nnn
  | .call nnn => encodeNNN 0x2#4 nnn
  | .seImm x kk => encodeXKK 0x3#4 x kk
  | .sneImm x kk => encodeXKK 0x4#4 x kk
  | .seReg x y => encodeXYN 0x5#4 x y 0
  | .ldImm x kk => encodeXKK 0x6#4 x kk
  | .addImm x kk => encodeXKK 0x7#4 x kk
  | .ldReg x y => encodeXYN 0x8#4 x y 0x0
  | .orReg x y => encodeXYN 0x8#4 x y 0x1
  | .andReg x y => encodeXYN 0x8#4 x y 0x2
  | .xorReg x y => encodeXYN 0x8#4 x y 0x3
  | .addReg x y => encodeXYN 0x8#4 x y 0x4
  | .subReg x y => encodeXYN 0x8#4 x y 0x5
  | .shr x y => encodeXYN 0x8#4 x y 0x6
  | .subn x y => encodeXYN 0x8#4 x y 0x7
  | .shl x y => encodeXYN 0x8#4 x y 0xE
  | .sneReg x y => encodeXYN 0x9#4 x y 0
  | .ldI nnn => encodeNNN 0xA#4 nnn
  | .jpV0 nnn => encodeNNN 0xB#4 nnn
  | .rnd x kk => encodeXKK 0xC#4 x kk
  | .drw x y n => encodeXYN 0xD#4 x y n
  | .skp x => encodeXKK 0xE#4 x 0x9E#8
  | .sknp x => encodeXKK 0xE#4 x 0xA1#8
  | .ldVxDt x => encodeXKK 0xF#4 x 0x07#8
  | .ldVxK x => encodeXKK 0xF#4 x 0x0A#8
  | .ldDtVx x => encodeXKK 0xF#4 x 0x15#8
  | .ldStVx x => encodeXKK 0xF#4 x 0x18#8
  | .addI x => encodeXKK 0xF#4 x 0x1E#8
  | .ldF x => encodeXKK 0xF#4 x 0x29#8
  | .ldB x => encodeXKK 0xF#4 x 0x33#8
  | .ldMemVx x => encodeXKK 0xF#4 x 0x55#8
  | .ldVxMem x => encodeXKK 0xF#4 x 0x65#8

/-- The mask and the match of an instruction's row, columns 3 and 4 of R79. -/
def rowOf : Instr → Word × Word
  | .sys _ => (0xF000#16, 0x0000#16)
  | .cls => (0xF0FF#16, 0x00E0#16)
  | .ret => (0xF0FF#16, 0x00EE#16)
  | .jp _ => (0xF000#16, 0x1000#16)
  | .call _ => (0xF000#16, 0x2000#16)
  | .seImm _ _ => (0xF000#16, 0x3000#16)
  | .sneImm _ _ => (0xF000#16, 0x4000#16)
  | .seReg _ _ => (0xF000#16, 0x5000#16)
  | .ldImm _ _ => (0xF000#16, 0x6000#16)
  | .addImm _ _ => (0xF000#16, 0x7000#16)
  | .ldReg _ _ => (0xF00F#16, 0x8000#16)
  | .orReg _ _ => (0xF00F#16, 0x8001#16)
  | .andReg _ _ => (0xF00F#16, 0x8002#16)
  | .xorReg _ _ => (0xF00F#16, 0x8003#16)
  | .addReg _ _ => (0xF00F#16, 0x8004#16)
  | .subReg _ _ => (0xF00F#16, 0x8005#16)
  | .shr _ _ => (0xF00F#16, 0x8006#16)
  | .subn _ _ => (0xF00F#16, 0x8007#16)
  | .shl _ _ => (0xF00F#16, 0x800E#16)
  | .sneReg _ _ => (0xF000#16, 0x9000#16)
  | .ldI _ => (0xF000#16, 0xA000#16)
  | .jpV0 _ => (0xF000#16, 0xB000#16)
  | .rnd _ _ => (0xF000#16, 0xC000#16)
  | .drw _ _ _ => (0xF000#16, 0xD000#16)
  | .skp _ => (0xF0FF#16, 0xE09E#16)
  | .sknp _ => (0xF0FF#16, 0xE0A1#16)
  | .ldVxDt _ => (0xF0FF#16, 0xF007#16)
  | .ldVxK _ => (0xF0FF#16, 0xF00A#16)
  | .ldDtVx _ => (0xF0FF#16, 0xF015#16)
  | .ldStVx _ => (0xF0FF#16, 0xF018#16)
  | .addI _ => (0xF0FF#16, 0xF01E#16)
  | .ldF _ => (0xF0FF#16, 0xF029#16)
  | .ldB _ => (0xF0FF#16, 0xF033#16)
  | .ldMemVx _ => (0xF0FF#16, 0xF055#16)
  | .ldVxMem _ => (0xF0FF#16, 0xF065#16)

/-- The bits of a word that take no part in the instruction it decodes to (R82): op[11:8] of CLS and RET, op[3:0] of 5XY- and
9XY-. (The field Y of SHR and SHL is kept, since QUIRK_SHIFT_VY decides whether it is read.) -/
def ignoredBits : Instr → Word
  | .sys _ => 0x0000#16
  | .cls => 0x0F00#16
  | .ret => 0x0F00#16
  | .jp _ => 0x0000#16
  | .call _ => 0x0000#16
  | .seImm _ _ => 0x0000#16
  | .sneImm _ _ => 0x0000#16
  | .seReg _ _ => 0x000F#16
  | .ldImm _ _ => 0x0000#16
  | .addImm _ _ => 0x0000#16
  | .ldReg _ _ => 0x0000#16
  | .orReg _ _ => 0x0000#16
  | .andReg _ _ => 0x0000#16
  | .xorReg _ _ => 0x0000#16
  | .addReg _ _ => 0x0000#16
  | .subReg _ _ => 0x0000#16
  | .shr _ _ => 0x0000#16
  | .subn _ _ => 0x0000#16
  | .shl _ _ => 0x0000#16
  | .sneReg _ _ => 0x000F#16
  | .ldI _ => 0x0000#16
  | .jpV0 _ => 0x0000#16
  | .rnd _ _ => 0x0000#16
  | .drw _ _ _ => 0x0000#16
  | .skp _ => 0x0000#16
  | .sknp _ => 0x0000#16
  | .ldVxDt _ => 0x0000#16
  | .ldVxK _ => 0x0000#16
  | .ldDtVx _ => 0x0000#16
  | .ldStVx _ => 0x0000#16
  | .addI _ => 0x0000#16
  | .ldF _ => 0x0000#16
  | .ldB _ => 0x0000#16
  | .ldMemVx _ => 0x0000#16
  | .ldVxMem _ => 0x0000#16

end Sys2Proof
end

