-- ==== Sys2Proof/Config.lean ====
section
/-! DEFINITION. The configuration parameters of 00_scope.md R9, fixed for a run and not writable by programs (R40), and the
draw of the random source, a free value. -/

namespace Sys2Proof

/-- The 80 font bytes, glyph by glyph (R8, R32). -/
abbrev Font := Vector Byte 80

/-- The parameters a model takes as arguments (R9). TICK_RATE is the host's schedule of calls, RAND is `Config.randomByte`. -/
structure Config where
  /-- QUIRK_SHIFT_VY: SHR and SHL shift V[y] (true) or V[x] (false) -/
  quirkShiftVy : Bool
  /-- QUIRK_ADDI_VF: FX1E writes VF (true) or leaves it (false) -/
  quirkAddiVf : Bool
  /-- FONT: the bytes at 0x000 to 0x04F after construction and reset -/
  font : Font
  deriving DecidableEq, Repr

/-- The byte the random source gives at its n-th draw (R38, R131): a FREE VALUE, with no body, so nothing can be proved of it
but that it is a byte. Log entry 4. -/
opaque Config.randomByte : Nat → Byte

end Sys2Proof
end

