-- ==== Sys2Proof/Machine/Defaults.lean ====
section
/-! DEFINITION. The default configuration of 00_scope.md R9: the two quirk switches false and the font table of 10_state.md
R33. -/

namespace Sys2Proof.Machine

/-- The default FONT, glyph 0 to glyph F, five rows each from top to bottom (R32, R33). Log entry 8. -/
def defaultFont : Font := Vector.mk (#[
  0xF0, 0x90, 0x90, 0x90, 0xF0,   0x20, 0x60, 0x20, 0x20, 0x70,
  0xF0, 0x10, 0xF0, 0x80, 0xF0,   0xF0, 0x10, 0xF0, 0x10, 0xF0,
  0x90, 0x90, 0xF0, 0x10, 0x10,   0xF0, 0x80, 0xF0, 0x10, 0xF0,
  0xF0, 0x80, 0xF0, 0x90, 0xF0,   0xF0, 0x10, 0x20, 0x40, 0x40,
  0xF0, 0x90, 0xF0, 0x90, 0xF0,   0xF0, 0x90, 0xF0, 0x10, 0xF0,
  0xF0, 0x90, 0xF0, 0x90, 0x90,   0xE0, 0x90, 0xE0, 0x90, 0xE0,
  0xF0, 0x80, 0x80, 0x80, 0xF0,   0xE0, 0x90, 0x90, 0x90, 0xE0,
  0xF0, 0x80, 0xF0, 0x80, 0xF0,   0xF0, 0x80, 0xF0, 0x80, 0x80] : Array Byte) rfl

/-- QUIRK_SHIFT_VY = false, QUIRK_ADDI_VF = false, FONT = the table of R33 (R9). -/
def defaultConfig : Config := { quirkShiftVy := false, quirkAddiVf := false, font := defaultFont }

end Sys2Proof.Machine
end

