-- ==== Sys2Proof/Machine/State.lean ====
section
/-! DEFINITION. The engine's state, all of 10_state.md R20, as plain data; beside it the model's own three fields (the
configuration, the counter of random draws, the host's coming calls); the reasons a step can stop; the state after
construction and reset (R42). -/

namespace Sys2Proof.Machine

/-- MEM (R31) as the bytes that differ from the contents after construction: (address, byte) pairs in the canonical form of
`Memory.wf`. -/
abbrev Memory := List Host.Cell

/-- DISP (R34, R35): 32 rows of 64 pixels; the pixel at column x, row y is entry x of row y; true is on. -/
abbrev Display := Vector (Vector Bool 64) 32

/-- Sixteen key states, entry k for key k; true is pressed (R36, R37). -/
abbrev Keys := Vector Bool 16

/-- The three fatal conditions (R39, R210). -/
inductive FaultKind where
  | stackOverflow
  | stackUnderflow
  | fetchOutOfBounds
  deriving DecidableEq, Repr

/-- What FAULT holds once a fatal condition was raised: its kind and the address of the instruction (R39, R215). -/
structure FaultRecord where
  kind : FaultKind
  pc : Word
  deriving DecidableEq, Repr

/-- The five state-changing operations the host performs on the engine (R15, R226). -/
inductive HostOp where
  /-- `tick()` (R90) -/
  | tick
  /-- `decrement_timers()` (R222) -/
  | decrementTimers
  /-- `set_keys(k)` (R229) -/
  | setKeys (k : Keys)
  /-- `load_program(bytes)` (R253, R254) -/
  | loadProgram (bytes : List Byte)
  /-- `reset()` (R251) -/
  | reset
  deriving DecidableEq, Repr

/-- Why a step stops with a fault. -/
inductive Fault where
  /-- Raised by `tick` when FAULT is already set, and by nothing else: R91 gives such a tick no step ("a stuck, faulted state").
  The kind and the pc are those FAULT holds. SAFE: the engine too runs no further instruction. (A tick that RAISES a fatal
  condition is no fault of the model: it answers a next state with FAULT set, as R215 describes. Log entry 1.) -/
  | halted (kind : FaultKind) (pc : Word)
  deriving DecidableEq, Repr

/-- Why an instruction is given no meaning. -/
inductive Refusal where
  /-- An arm of `exec` whose instruction has no meaning yet; no arm answers it now. SAFE: nothing can be proved to follow it. -/
  | notModelled (mnemonic : String)
  deriving DecidableEq, Repr

/-- The state of the engine (R20) and the model's own fields. -/
structure State where
  /-- V[0..15]; V[15] is VF (R21, R22) -/
  v : Vector Byte 16
  /-- I (R24) -/
  i : Word
  /-- PC (R25) -/
  pc : Word
  /-- STACK[0..15] (R28) -/
  stack : Vector Word 16
  /-- SP, 0 to 16 (R29) -/
  sp : Fin 17
  /-- DT, the delay timer (R30) -/
  dt : Byte
  /-- ST, the sound timer (R30) -/
  st : Byte
  /-- MEM[0x000..0xFFF] (R31) -/
  mem : Memory
  /-- DISP (R34) -/
  disp : Display
  /-- KEYS, the keypad snapshot (R36) -/
  keys : Keys
  /-- KEYS_SEEN, the snapshot the previous tick ran with (R37) -/
  keysSeen : Keys
  /-- FAULT (R39) -/
  fault : Option FaultRecord
  /-- MODEL'S OWN: the configuration parameters (R9), which no step changes. DESIGN CHOICE, log entry 3. -/
  cfg : Config
  /-- MODEL'S OWN: how many bytes the random source has given; names the next free value. DESIGN CHOICE, log entry 4. -/
  draws : Nat
  /-- MODEL'S OWN: the host's coming calls, first call first; with none listed the host calls `tick` (R227). DESIGN CHOICE, log
  entry 2. -/
  calls : List HostOp
  deriving DecidableEq, Repr

/-- The state after construction with the parameters c (R42, R250): every field zero, memory as constructed (nothing listed). -/
def State.construct (c : Config) : State where
  v := Vector.replicate 16 0
  i := 0
  pc := 0
  stack := Vector.replicate 16 0
  sp := 0
  dt := 0
  st := 0
  mem := []
  disp := Vector.replicate 32 (Vector.replicate 64 false)
  keys := Vector.replicate 16 false
  keysSeen := Vector.replicate 16 false
  fault := none
  cfg := c
  draws := 0
  calls := []

/-- The engine right after construction with the default parameters (R9, R42). -/
def State.reset : State := State.construct defaultConfig

end Sys2Proof.Machine
end

