-- ==== Sys2Proof/Machine/Ops.lean ====
section
/-! DEFINITION. The named operations over the state: memory (10_state.md R31, 20_memory.md), the registers, the stack
primitives (41_control_flow.md R110, R111), the display's pixels, instruction fetch (40_cycle.md R92 to R94), taking a fatal
fault (60_exceptions.md R215) and the only way out of one, `reset` (70_reset_and_hazards.md R251). -/

namespace Sys2Proof.Machine

/-! ## Memory -/

/-- What an address reads as after construction, and so while memory lists nothing there: the font at 0x000 to 0x04F, zero
above (R42). -/
def Memory.initial (f : Font) (a : Nat) : Byte := if h : a < 80 then f[a] else 0

/-- `MemRead(a, 1)` (R13). -/
def Memory.read (f : Font) (m : Memory) (a : Nat) : Byte :=
  match m with
  | [] => Memory.initial f a
  | (b, w) :: rest => if a = b then w else Memory.read f rest a

/-- `MemWrite(a, 1, v)` (R13, R58), keeping the canonical form. -/
def Memory.write (f : Font) (m : Memory) (a : Nat) (v : Byte) : Memory :=
  match m with
  | [] => if v = Memory.initial f a then [] else [(a, v)]
  | (b, w) :: rest =>
    if a < b then
      if v = Memory.initial f a then (b, w) :: rest else (a, v) :: (b, w) :: rest
    else if a = b then
      if v = Memory.initial f a then rest else (a, v) :: rest
    else (b, w) :: Memory.write f rest a v

/-- Consecutive bytes from address a on, in ascending order (R57, R252). -/
def Memory.writeBytes (f : Font) (m : Memory) (a : Nat) (bytes : List Byte) : Memory :=
  match bytes with
  | [] => m
  | b :: rest => Memory.writeBytes f (Memory.write f m a b) (a + 1) rest

/-- The canonical form: addresses strictly rising and inside the 4096 bytes, no entry equal to what an unlisted address reads
as. -/
abbrev Memory.wf (f : Font) (m : Memory) : Prop :=
  m.Pairwise (fun c d => c.1 < d.1) ∧ ∀ c ∈ m, c.1 < 4096 ∧ c.2 ≠ Memory.initial f c.1

/-- `MEM[a]`. -/
def State.readByte (s : State) (a : Addr) : Byte := Memory.read s.cfg.font s.mem a.toNat

/-- `MEM[a] <- b`. -/
def State.writeByte (s : State) (a : Addr) (b : Byte) : State :=
  { s with mem := Memory.write s.cfg.font s.mem a.toNat b }

/-! ## Registers -/

/-- `V[x]` (R12). -/
def State.getV (s : State) (x : Reg) : Byte := s.v[x.val]

/-- `V[x] <- b` (R12). -/
def State.setV (s : State) (x : Reg) (b : Byte) : State := { s with v := s.v.set x.val b }

/-- `V[15] <- b`: VF (R22). -/
def State.setVF (s : State) (b : Byte) : State := s.setV 15 b

/-- `pc <- target` (R12). -/
def State.setPc (s : State) (target : Word) : State := { s with pc := target }

/-- `I <- w` (R12). -/
def State.setI (s : State) (w : Word) : State := { s with i := w }

/-- `DT <- b` (R12). -/
def State.setDt (s : State) (b : Byte) : State := { s with dt := b }

/-- `ST <- b` (R12). -/
def State.setSt (s : State) (b : Byte) : State := { s with st := b }

/-- `skip()`: a further advance of PC by 2 (R109). -/
def State.skip (s : State) : State := s.setPc (s.pc + 2)

/-- `if c then skip()` (R105 to R108, R190, R191). -/
def State.skipIf (s : State) (c : Bool) : State := if c then s.skip else s

/-- The address of the executing instruction: PC already holds it plus 2 (R96). Log entry 12. -/
def State.instrAddr (s : State) : Word := s.pc - 2

/-! ## Stack primitives -/

/-- `STACK[j]`. -/
def State.stackEntry (s : State) (j : Fin 16) : Word := s.stack[j.val]

/-- `push(w)`: store at index SP, then increment; none where SP = 16 (R110). -/
def State.push (s : State) (w : Word) : Option State :=
  if h : s.sp.val < 16 then some { s with stack := s.stack.set s.sp.val w, sp := ⟨s.sp.val + 1, by omega⟩ } else none

/-- `pop()`: decrement, then read at index SP; none where SP = 0. The entry keeps its value (R111). -/
def State.pop (s : State) : Option (Word × State) :=
  if h : 0 < s.sp.val then
    some (s.stack[s.sp.val - 1]'(by omega), { s with sp := ⟨s.sp.val - 1, by omega⟩ })
  else none

/-! ## Display -/

/-- `DISP[y][x]` (R35). -/
def Display.pixel (d : Display) (x : Fin 64) (y : Fin 32) : Bool := (d[y.val])[x.val]

/-- `DISP[y][x] <- DISP[y][x] ^ 1` (R171). -/
def Display.flip (d : Display) (x : Fin 64) (y : Fin 32) : Display :=
  d.set y.val ((d[y.val]).set x.val (!d.pixel x y))

/-- Every pixel 0 (R170). -/
def Display.blank : Display := Vector.replicate 32 (Vector.replicate 64 false)

/-! ## Random source -/

/-- `Rand()`: the drawn byte, a free value, and the state that has taken the draw (R14, R38). Log entry 4. -/
def State.rand (s : State) : Byte × State := (Config.randomByte s.draws, { s with draws := s.draws + 1 })

/-! ## Fatal faults: entry, and the only way out -/

/-- `raise Fault(kind, a)`: FAULT records the kind and the instruction's address; nothing else changes (R14, R215). -/
def State.takeFault (s : State) (kind : FaultKind) (a : Word) : State := { s with fault := some ⟨kind, a⟩ }

/-- `reset()`: every field of R20 takes its construction value, FAULT none among them (R217, R251). The configuration is fixed
for the run (R40), the random source need not be reseeded (R251), the host's further calls are the host's. -/
def State.resetEngine (s : State) : State :=
  { State.construct s.cfg with draws := s.draws, calls := s.calls }

/-! ## Instruction fetch -/

/-- `MemRead(a, 2)`, big-endian (R52). -/
def State.readWord (s : State) (a : Word) : Word :=
  wordOfBytes (s.readByte (a.setWidth 12)) (s.readByte ((a + 1).setWidth 12))

/-- Fetch: the word at PC; none where PC + 1 > 0xFFF (R92, R93). No alignment check (R56). -/
def State.fetch (s : State) : Option Word :=
  if s.pc.toNat + 1 > 0xFFF then none else some (s.readWord s.pc)

/-- The advance before execution, `PC <- trunc_16(PC + 2)` (R94). -/
def State.advance (s : State) : State := s.setPc (s.pc + 2)

/-- `KEYS_SEEN <- KEYS` at the end of a tick that completes (R98). -/
def State.latchKeys (s : State) : State := { s with keysSeen := s.keys }

end Sys2Proof.Machine
end

