-- ==== Sys2Proof/Machine/Operands.lean ====
section
/-! DEFINITION. Every operand form of the instructions: immediates, the effective address EA(k), the registers V0 to Vx, the
shift's source, the glyph address, the key index, the key-press transitions and the cells of a sprite. -/

namespace Sys2Proof.Machine

/-- `zext_16(nnn)` (R72). -/
def zext16 (nnn : Addr) : Word := nnn.setWidth 16

/-- `EA(k) = (I + k) mod 4096` (R54). -/
def State.ea (s : State) (k : Nat) : Addr := BitVec.ofNat 12 (s.i.toNat + k)

/-- The indexes 0 to x, ascending (R154, R155). -/
def regsUpTo (x : Reg) : List Reg := (List.finRange 16).filter (fun k => decide (k ≤ x))

/-- The register a shift reads: V[y] with QUIRK_SHIFT_VY, else V[x] (R128, R130). -/
def State.shiftSource (s : State) (x y : Reg) : Byte := if s.cfg.quirkShiftVy then s.getV y else s.getV x

/-- The low nibble of a register: the glyph of FX29 (R152), the key of EX9E and EXA1 (R192). -/
def lowNibble (b : Byte) : Fin 16 := Fin.ofNat 16 (b.toNat % 16)

/-- The font address of a glyph: FONT_BASE + 5 * glyph, FONT_BASE = 0 (R152). -/
def glyphAddr (g : Fin 16) : Word := BitVec.ofNat 16 (5 * g.val)

/-- `KEYS[k]` (R36). -/
def State.keyDown (s : State) (k : Fin 16) : Bool := s.keys[k.val]

/-- Key k has a press transition: pressed now, not in the snapshot the previous tick ran with (R194). -/
def State.pressed (s : State) (k : Fin 16) : Bool := s.keys[k.val] && !s.keysSeen[k.val]

/-- The lowest key with a press transition, if there is one: `min(T)` of R193. -/
def State.firstPress (s : State) : Option (Fin 16) := (List.finRange 16).find? s.pressed

/-! ## Sprites -/

/-- A pixel's column and row. -/
abbrev Cell := Fin 64 × Fin 32

/-- The sprite bit of column j, 0 to 7, in a row byte: bit 7 is the leftmost (R172). -/
def spriteBit (b : Byte) (j : Nat) : Bool := b.getLsbD (7 - j)

/-- The cell that bit j of sprite row r draws, none where the bit is 0 or the pixel is clipped (R171, R173). -/
def State.spriteCell (s : State) (x0 y0 r j : Nat) : Option Cell :=
  if h : x0 + j ≤ 63 ∧ y0 + r ≤ 31 then
    if spriteBit (s.readByte (s.ea r)) j then some (⟨x0 + j, by omega⟩, ⟨y0 + r, by omega⟩) else none
  else none

/-- The cells an n-row sprite draws with its corner at (x0, y0), row by row and column by column as R171 loops. -/
def State.spriteCells (s : State) (x0 y0 n : Nat) : List Cell :=
  (List.range n).flatMap fun r => (List.range 8).filterMap fun j => s.spriteCell x0 y0 r j

/-- One drawn pixel of R171: the collision bit c becomes 1 where the pixel was on, then the pixel flips. -/
def drawCell (acc : Display × Bool) (p : Cell) : Display × Bool :=
  (acc.1.flip p.1 p.2, acc.2 || acc.1.pixel p.1 p.2)

/-- The loops of R171 over the drawn cells, from the collision bit 0: the new display and c. -/
def drawCells (d : Display) (cells : List Cell) : Display × Bool := cells.foldl drawCell (d, false)

end Sys2Proof.Machine
end

