-- ==== Sys2Proof/Machine/Flags.lean ====
section
/-! DEFINITION. Every flag computation (42_register_alu.md R126 to R130, 43_index_memory.md R151, 44_display.md R174), the
arithmetic beside it, exact and then narrowed (R11, R133), and the one order in which a result and its flag are written
(R132). -/

namespace Sys2Proof.Machine

/-- A flag as the byte VF holds: 1 or 0. -/
def flagByte (c : Bool) : Byte := if c then 1 else 0

/-- `trunc_8(a + b)` (R121, R126). -/
def sumByte (a b : Byte) : Byte := BitVec.ofNat 8 (a.toNat + b.toNat)

/-- `(a + b > 0xFF)`: carry out of bit 7 (R126). -/
def carry (a b : Byte) : Bool := decide (a.toNat + b.toNat > 0xFF)

/-- `trunc_8(a + 0x100 − b)` (R127, R129). -/
def differenceByte (a b : Byte) : Byte := BitVec.ofNat 8 (a.toNat + 0x100 - b.toNat)

/-- `(a >= b)`: no borrow from a − b (R127, R129). -/
def noBorrow (a b : Byte) : Bool := decide (a.toNat ≥ b.toNat)

/-- `s >> 1` (R128). -/
def shiftedRight (b : Byte) : Byte := b >>> 1

/-- `s & 1`: the bit a right shift drops (R128). -/
def lowBit (b : Byte) : Bool := b.getLsbD 0

/-- `trunc_8(s << 1)` (R130). -/
def shiftedLeft (b : Byte) : Byte := b <<< 1

/-- `(s >> 7) & 1`: the bit a left shift drops (R130). -/
def highBit (b : Byte) : Bool := b.getLsbD 7

/-- `trunc_16(I + V[x])` (R151). -/
def sumIndex (i : Word) (b : Byte) : Word := BitVec.ofNat 16 (i.toNat + b.toNat)

/-- `(I + V[x] > 0xFFF)`: the flag of FX1E under QUIRK_ADDI_VF (R151). -/
def indexOverflow (i : Word) (b : Byte) : Bool := decide (i.toNat + b.toNat > 0xFFF)

/-- The result to V[x], then the flag to VF, the flag last (R132). -/
def State.writeResultFlag (s : State) (x : Reg) (result : Byte) (flag : Bool) : State :=
  (s.setV x result).setVF (flagByte flag)

end Sys2Proof.Machine
end

