-- ==== Sys2Proof/Machine/ControlFlow.lean ====
section
/-! DEFINITION. The meanings of 41_control_flow.md: SYS, the jumps, CALL, RET and the four register-compare skips. The state
they run in already holds PC = a + 2 (40_cycle.md R94, R96). -/

namespace Sys2Proof.Machine

/-- `SYS nnn`: no operation (R100). -/
def execSys (_nnn : Addr) (s : State) : Host.Outcome State Fault Refusal := .next s

/-- `JP nnn`: `pc <- zext_16(nnn)` (R101). -/
def execJp (nnn : Addr) (s : State) : Host.Outcome State Fault Refusal := .next (s.setPc (zext16 nnn))

/-- `CALL nnn`: `push(PC); pc <- zext_16(nnn)`; StackOverflow where SP = 16 (R102, R110, R215). -/
def execCall (nnn : Addr) (s : State) : Host.Outcome State Fault Refusal :=
  match s.push s.pc with
  | some t => .next (t.setPc (zext16 nnn))
  | none => .next (s.takeFault .stackOverflow s.instrAddr)

/-- `RET`: `pc <- pop()`; StackUnderflow where SP = 0 (R103, R111, R215). -/
def execRet (s : State) : Host.Outcome State Fault Refusal :=
  match s.pop with
  | some (w, t) => .next (t.setPc w)
  | none => .next (s.takeFault .stackUnderflow s.instrAddr)

/-- `JP V0, nnn`: `pc <- trunc_16(zext_16(nnn) + zext_16(V[0]))`, not masked to 12 bits (R104). -/
def execJpV0 (nnn : Addr) (s : State) : Host.Outcome State Fault Refusal :=
  .next (s.setPc (zext16 nnn + (s.getV 0).setWidth 16))

/-- `SE Vx, kk` (R105). -/
def execSeImm (x : Reg) (kk : Byte) (s : State) : Host.Outcome State Fault Refusal :=
  .next (s.skipIf (s.getV x == kk))

/-- `SNE Vx, kk` (R106). -/
def execSneImm (x : Reg) (kk : Byte) (s : State) : Host.Outcome State Fault Refusal :=
  .next (s.skipIf (s.getV x != kk))

/-- `SE Vx, Vy` (R107). -/
def execSeReg (x y : Reg) (s : State) : Host.Outcome State Fault Refusal :=
  .next (s.skipIf (s.getV x == s.getV y))

/-- `SNE Vx, Vy` (R108). -/
def execSneReg (x y : Reg) (s : State) : Host.Outcome State Fault Refusal :=
  .next (s.skipIf (s.getV x != s.getV y))

end Sys2Proof.Machine
end

