-- ==== Sys2Proof/Machine/Display.lean ====
section
/-! DEFINITION. The meanings of 44_display.md: clearing the display and drawing a sprite with collision detection. -/

namespace Sys2Proof.Machine

/-- `CLS`: every pixel 0 (R170). -/
def execCls (s : State) : Host.Outcome State Fault Refusal := .next { s with disp := Display.blank }

/-- The sprite's left column, `V[x] mod 64` (R173). -/
def State.drawColumn (s : State) (x : Reg) : Nat := (s.getV x).toNat % 64

/-- The sprite's top row, `V[y] mod 32` (R173). -/
def State.drawRow (s : State) (y : Reg) : Nat := (s.getV y).toNat % 32

/-- The display and the collision bit that the loops of R171 leave. -/
def State.drawSprite (s : State) (x y : Reg) (n : Fin 16) : Display × Bool :=
  drawCells s.disp (s.spriteCells (s.drawColumn x) (s.drawRow y) n.val)

/-- `DRW Vx, Vy, n`; VF is written once, after every pixel (R171, R174, R175). -/
def execDrw (x y : Reg) (n : Fin 16) (s : State) : Host.Outcome State Fault Refusal :=
  .next (({ s with disp := (s.drawSprite x y n).1 } : State).setVF (flagByte (s.drawSprite x y n).2))

end Sys2Proof.Machine
end

