-- ==== Sys2Proof/Machine/IndexMemory.lean ====
section
/-! DEFINITION. The meanings of 43_index_memory.md: setting I, and the stores and loads through I, whose addresses are EA(k)
(20_memory.md R54). None of the stores or loads changes I. -/

namespace Sys2Proof.Machine

/-- `LD I, nnn` (R150). -/
def execLdI (nnn : Addr) (s : State) : Host.Outcome State Fault Refusal := .next (s.setI (zext16 nnn))

/-- `ADD I, Vx`; VF, written last, only under QUIRK_ADDI_VF (R151). -/
def execAddI (x : Reg) (s : State) : Host.Outcome State Fault Refusal :=
  if s.cfg.quirkAddiVf then
    .next ((s.setI (sumIndex s.i (s.getV x))).setVF (flagByte (indexOverflow s.i (s.getV x))))
  else .next (s.setI (sumIndex s.i (s.getV x)))

/-- `LD F, Vx`: the font address of the glyph in the low nibble (R152). -/
def execLdF (x : Reg) (s : State) : Host.Outcome State Fault Refusal :=
  .next (s.setI (glyphAddr (lowNibble (s.getV x))))

/-- The three decimal digits of a byte: hundreds, tens, ones (R153). -/
def hundreds (b : Byte) : Byte := BitVec.ofNat 8 (b.toNat / 100)

/-- The tens digit (R153). -/
def tens (b : Byte) : Byte := BitVec.ofNat 8 (b.toNat / 10 % 10)

/-- The ones digit (R153). -/
def ones (b : Byte) : Byte := BitVec.ofNat 8 (b.toNat % 10)

/-- `LD B, Vx`: the digits of V[x] to EA(0), EA(1), EA(2) (R153). -/
def execLdB (x : Reg) (s : State) : Host.Outcome State Fault Refusal :=
  .next (((s.writeByte (s.ea 0) (hundreds (s.getV x))).writeByte (s.ea 1) (tens (s.getV x))).writeByte
    (s.ea 2) (ones (s.getV x)))

/-- `for k in ks: MemWrite(EA(k), 1, V[k])`, in the order of the list (R154). -/
def State.storeRegs (s : State) (ks : List Reg) : State :=
  ks.foldl (fun t k => t.writeByte (t.ea k.val) (t.getV k)) s

/-- `for k in ks: V[k] <- MemRead(EA(k), 1)`, in the order of the list (R155). -/
def State.loadRegs (s : State) (ks : List Reg) : State :=
  ks.foldl (fun t k => t.setV k (t.readByte (t.ea k.val))) s

/-- `LD [I], Vx` (R154). -/
def execLdMemVx (x : Reg) (s : State) : Host.Outcome State Fault Refusal := .next (s.storeRegs (regsUpTo x))

/-- `LD Vx, [I]` (R155). -/
def execLdVxMem (x : Reg) (s : State) : Host.Outcome State Fault Refusal := .next (s.loadRegs (regsUpTo x))

end Sys2Proof.Machine
end

