-- ==== Sys2Proof/Machine/RegisterAlu.lean ====
section
/-! DEFINITION. The meanings of 42_register_alu.md: register loads, arithmetic, logic, shifts and the random byte. Operands are
read from the state before anything is written, and VF is written last (R132). -/

namespace Sys2Proof.Machine

/-- `LD Vx, kk` (R120). -/
def execLdImm (x : Reg) (kk : Byte) (s : State) : Host.Outcome State Fault Refusal := .next (s.setV x kk)

/-- `ADD Vx, kk`: wraps, writes no carry (R121). -/
def execAddImm (x : Reg) (kk : Byte) (s : State) : Host.Outcome State Fault Refusal :=
  .next (s.setV x (sumByte (s.getV x) kk))

/-- `LD Vx, Vy` (R122). -/
def execLdReg (x y : Reg) (s : State) : Host.Outcome State Fault Refusal := .next (s.setV x (s.getV y))

/-- `OR Vx, Vy`: VF is not reset (R123). -/
def execOrReg (x y : Reg) (s : State) : Host.Outcome State Fault Refusal :=
  .next (s.setV x (s.getV x ||| s.getV y))

/-- `AND Vx, Vy`: VF is not reset (R124). -/
def execAndReg (x y : Reg) (s : State) : Host.Outcome State Fault Refusal :=
  .next (s.setV x (s.getV x &&& s.getV y))

/-- `XOR Vx, Vy`: VF is not reset (R125). -/
def execXorReg (x y : Reg) (s : State) : Host.Outcome State Fault Refusal :=
  .next (s.setV x (s.getV x ^^^ s.getV y))

/-- `ADD Vx, Vy` with VF = carry (R126). -/
def execAddReg (x y : Reg) (s : State) : Host.Outcome State Fault Refusal :=
  .next (s.writeResultFlag x (sumByte (s.getV x) (s.getV y)) (carry (s.getV x) (s.getV y)))

/-- `SUB Vx, Vy` with VF = no borrow (R127). -/
def execSubReg (x y : Reg) (s : State) : Host.Outcome State Fault Refusal :=
  .next (s.writeResultFlag x (differenceByte (s.getV x) (s.getV y)) (noBorrow (s.getV x) (s.getV y)))

/-- `SHR Vx {, Vy}` with VF = the bit shifted out of the source (R128). -/
def execShr (x y : Reg) (s : State) : Host.Outcome State Fault Refusal :=
  .next (s.writeResultFlag x (shiftedRight (s.shiftSource x y)) (lowBit (s.shiftSource x y)))

/-- `SUBN Vx, Vy`: V[y] − V[x] with VF = no borrow (R129). -/
def execSubn (x y : Reg) (s : State) : Host.Outcome State Fault Refusal :=
  .next (s.writeResultFlag x (differenceByte (s.getV y) (s.getV x)) (noBorrow (s.getV y) (s.getV x)))

/-- `SHL Vx {, Vy}` with VF = the bit shifted out of the source (R130). -/
def execShl (x y : Reg) (s : State) : Host.Outcome State Fault Refusal :=
  .next (s.writeResultFlag x (shiftedLeft (s.shiftSource x y)) (highBit (s.shiftSource x y)))

/-- `RND Vx, kk`: `r <- Rand(); V[x] <- r & kk` (R131). -/
def execRnd (x : Reg) (kk : Byte) (s : State) : Host.Outcome State Fault Refusal :=
  .next (s.rand.2.setV x (s.rand.1 &&& kk))

end Sys2Proof.Machine
end

