-- ==== Sys2Proof/Machine/Tick.lean ====
section
/-! DEFINITION. The tick cycle (40_cycle.md): fetch, advance, decode, execute, latch the keys. -/

namespace Sys2Proof.Machine

/-- Execute what decode gave: a variant's meaning (R96), or nothing for an Unassigned word (R97). -/
def execDecoded (d : Decoded) (s : State) : Host.Outcome State Fault Refusal :=
  match d with
  | .variant i => exec i s
  | .unassigned _ => .next s

/-- The end of a tick: KEYS_SEEN <- KEYS where it completed; a tick that raised a fault leaves KEYS_SEEN (R98, R215). -/
def State.endTick (s : State) : State := if s.fault.isNone then s.latchKeys else s

/-- The end of a tick on execution's outcome. -/
def endOutcome (o : Host.Outcome State Fault Refusal) : Host.Outcome State Fault Refusal :=
  match o with
  | .next s => .next s.endTick
  | .fault f => .fault f
  | .refused r => .refused r

/-- `tick()` (R90): no step on a faulted engine (R91); FetchOutOfBounds before anything is read (R93); else one instruction. -/
def tick (s : State) : Host.Outcome State Fault Refusal :=
  match s.fault with
  | some f => .fault (.halted f.kind f.pc)
  | none =>
    match s.fetch with
    | none => .next (s.takeFault .fetchOutOfBounds s.pc)
    | some op => endOutcome (execDecoded (decode op) s.advance)

end Sys2Proof.Machine
end

