-- ==== Sys2Proof/Machine/HostInterface.lean ====
section
/-! DEFINITION. The operations the host performs on the engine (60_exceptions.md R226): the timers' step, the keypad snapshot,
loading a program, reset, and the three reads, which change nothing. -/

namespace Sys2Proof.Machine

/-- One timer's decrement: down by 1 while above 0 (R222, R224). -/
def decremented (b : Byte) : Byte := if b = 0 then 0 else b - 1

/-- `decrement_timers()`, also on a faulted engine (R222). -/
def State.decrementTimers (s : State) : State := { s with dt := decremented s.dt, st := decremented s.st }

/-- `set_keys(k)`: the whole snapshot; KEYS_SEEN is not touched (R229). -/
def State.setKeys (s : State) (k : Keys) : State := { s with keys := k }

/-- PROG_BASE, the address of the first program byte and the entry point (R8, R253). -/
def progBase : Nat := 0x200

/-- PROG_MAX, the most bytes a program may have (R8, R254). -/
def progMax : Nat := 3584

/-- What `load_program` answers to the host (R219, R226). -/
inductive LoadResult where
  | ok
  | loadError
  deriving DecidableEq, Repr

/-- `load_program(bytes)`: copy to 0x200 on and set PC, nothing else (R253); LoadError and no change where the program is too
large (R254). -/
def State.loadProgram (s : State) (bytes : List Byte) : LoadResult × State :=
  if bytes.length ≤ progMax then
    (.ok, { s with
      mem := Memory.writeBytes s.cfg.font s.mem progBase bytes
      pc := BitVec.ofNat 16 progBase })
  else (.loadError, s)

/-- `display()`: the pixel grid, row by row (R230, R35). -/
def State.displayView (s : State) : List Bool := s.disp.toList.flatMap Vector.toList

/-- `sound_timer_active()` (R231). -/
def State.soundTimerActive (s : State) : Bool := decide (s.st.toNat > 0)

/-- The code of a fault kind (R210). -/
def FaultKind.code : FaultKind → Nat
  | .stackOverflow => 1
  | .stackUnderflow => 2
  | .fetchOutOfBounds => 3

/-- The fault status: the code, 0 for none, and the recorded pc where there is a fault (R210, R216). -/
def State.faultStatus (s : State) : Nat × Option Word :=
  match s.fault with
  | none => (0, none)
  | some f => (f.kind.code, some f.pc)

/-- One host call, an atomic step of the engine (R15, R57, R226). -/
def perform (op : HostOp) (s : State) : Host.Outcome State Fault Refusal :=
  match op with
  | .tick => tick s
  | .decrementTimers => .next s.decrementTimers
  | .setKeys k => .next (s.setKeys k)
  | .loadProgram bytes => .next (s.loadProgram bytes).2
  | .reset => .next s.resetEngine

/-- The host's next call: the first one listed, or `tick` where none is (R227). Log entry 2. -/
def State.nextCall (s : State) : HostOp := s.calls.headD .tick

/-- The state with the next call taken from the list. -/
def State.dropCall (s : State) : State := { s with calls := s.calls.tail }

/-- A state in which the very next call is a `tick` that can fetch: FAULT none, no other call pending, PC inside the fetch
bound. Where they hold already, nothing changes. -/
def State.readyToTick (s : State) : State :=
  { s with fault := none, calls := [], pc := if s.pc.toNat + 1 > 0xFFF then BitVec.ofNat 16 progBase else s.pc }

/-- A word stored at PC and PC + 1, big-endian (R51). -/
def State.storeWordAtPc (s : State) (op : Word) : State :=
  (s.writeByte (s.pc.setWidth 12) (highByte op)).writeByte ((s.pc + 1).setWidth 12) (lowByte op)

end Sys2Proof.Machine
end

