-- ==== Sys2Proof/Machine/Step.lean ====
section
/-! DEFINITION. One step of the machine: the host's next call, performed (00_scope.md R15, 60_exceptions.md R227). -/

namespace Sys2Proof.Machine

/-- One step: the host's next call acts on the engine; with no call listed it is `tick` (R90, R226, R227). -/
def step (s : State) : Host.Outcome State Fault Refusal := perform s.nextCall s.dropCall

/-- The state with an instruction, given as spec/opcode_table.json numbers its bits, where the next tick fetches. -/
def State.withFetchWord (s : State) (nbits w : Nat) : State :=
  s.readyToTick.storeWordAtPc (BitVec.ofNat 16 (w % 2 ^ nbits))

end Sys2Proof.Machine
end

