-- ==== Sys2Proof/Safety.lean ====
section
/-! DEFINITION. The terms claims use: the pieces of state and what it means that only some of them changed, the state a tick
starts from, the end of a run (70_reset_and_hazards.md R256), and the engine's invariant. -/

namespace Sys2Proof.Machine

/-- The pieces of state of 10_state.md R20, and the model's own (the last three). -/
inductive Piece where
  | regs
  | index
  | pc
  | stack
  | sp
  | delayTimer
  | soundTimer
  | memory
  | display
  | keys
  | keysSeen
  | fault
  | config
  | draws
  | calls
  deriving DecidableEq, Repr

/-- A piece is the same in two states: for the registers every register, for the stack every entry, for memory every byte, for
the display every pixel. -/
def SamePiece (s t : State) : Piece → Prop
  | .regs => ∀ r, t.getV r = s.getV r
  | .index => t.i = s.i
  | .pc => t.pc = s.pc
  | .stack => ∀ j, t.stackEntry j = s.stackEntry j
  | .sp => t.sp = s.sp
  | .delayTimer => t.dt = s.dt
  | .soundTimer => t.st = s.st
  | .memory => ∀ a, t.readByte a = s.readByte a
  | .display => ∀ x y, t.disp.pixel x y = s.disp.pixel x y
  | .keys => t.keys = s.keys
  | .keysSeen => t.keysSeen = s.keysSeen
  | .fault => t.fault = s.fault
  | .config => t.cfg = s.cfg
  | .draws => t.draws = s.draws
  | .calls => t.calls = s.calls

/-- From s to t every piece is the same but those listed. -/
def OnlyChanges (pieces : List Piece) (s t : State) : Prop := ∀ p, p ∉ pieces → SamePiece s t p

/-- The host's next call is a tick, on an engine that has not faulted, whose PC is inside the fetch bound (R90 to R93). -/
def CanFetch (s : State) : Prop := s.nextCall = .tick ∧ s.fault = none ∧ s.pc.toNat + 1 ≤ 0xFFF

/-- The state in which the instruction at PC executes: the call taken, PC advanced (R94, R96). -/
def State.executing (s : State) : State := s.dropCall.advance

/-- Key k goes from not pressed to pressed: pressed in KEYS, not pressed in KEYS_SEEN (R194). -/
def PressTransition (s : State) (k : Fin 16) : Prop := s.keys[k.val] = true ∧ s.keysSeen[k.val] = false

/-- DRW's sprite has a set bit at the pixel (px, py): for some row r below n and column j below 8 of the sprite, the pixel is
(V[x] mod 64 + j, V[y] mod 32 + r) and bit 7 − j of MEM[(I + r) mod 4096] is 1 (R171 to R173). -/
def SpriteCovers (s : State) (x y : Reg) (n : Fin 16) (px : Fin 64) (py : Fin 32) : Prop :=
  ∃ r j : Nat, r < n.val ∧ j < 8 ∧ px.val = (s.getV x).toNat % 64 + j ∧ py.val = (s.getV y).toNat % 32 + r ∧
    (s.readByte (BitVec.ofNat 12 ((s.i.toNat + r) % 4096))).getLsbD (7 - j) = true

/-- The registers an instruction may write, as R22 and R23 list them: its destinations, and VF for the flag writers. -/
def writesReg (c : Config) (i : Instr) (r : Reg) : Bool :=
  match i with
  | .sys _ => false
  | .cls => false
  | .ret => false
  | .jp _ => false
  | .call _ => false
  | .seImm _ _ => false
  | .sneImm _ _ => false
  | .seReg _ _ => false
  | .ldImm x _ => r == x
  | .addImm x _ => r == x
  | .ldReg x _ => r == x
  | .orReg x _ => r == x
  | .andReg x _ => r == x
  | .xorReg x _ => r == x
  | .addReg x _ => r == x || r == 15
  | .subReg x _ => r == x || r == 15
  | .shr x _ => r == x || r == 15
  | .subn x _ => r == x || r == 15
  | .shl x _ => r == x || r == 15
  | .sneReg _ _ => false
  | .ldI _ => false
  | .jpV0 _ => false
  | .rnd x _ => r == x
  | .drw _ _ _ => r == 15
  | .skp _ => false
  | .sknp _ => false
  | .ldVxDt x => r == x
  | .ldVxK x => r == x
  | .ldDtVx _ => false
  | .ldStVx _ => false
  | .addI _ => c.quirkAddiVf && r == 15
  | .ldF _ => false
  | .ldB _ => false
  | .ldMemVx _ => false
  | .ldVxMem x => decide (r ≤ x)

/-- The three ways a run stands (R256). -/
inductive RunStatus where
  | faulted
  | finished
  | running
  deriving DecidableEq, Repr

/-- R256: faulted with FAULT set; finished where the word at PC is 1NNN with NNN = PC; else running. -/
def State.runStatus (s : State) : RunStatus :=
  match s.fault with
  | some _ => .faulted
  | none =>
    match s.fetch with
    | none => .running
    | some op => if opGroup op = 1 ∧ zext16 (opNNN op) = s.pc then .finished else .running

/-- The engine's invariant: memory in canonical form inside its 4096 bytes (R31), PC at most 0x10FE (R27), every stack entry a
return address, at most 0x1000 (R94, R102). -/
abbrev State.Inv (s : State) : Prop :=
  Memory.wf s.cfg.font s.mem ∧ s.pc.toNat ≤ 0x10FE ∧ ∀ j : Fin 16, (s.stackEntry j).toNat ≤ 0x1000

end Sys2Proof.Machine
end

