-- ==== Sys2Proof/Certificates/Slice0/Obligations.lean ====
section
/-! DEFINITION. The statements for the provers, each `Obligations.<Name> : Prop`, from the numbered rules of spec/. In a
statement about `exec` the state s is the one an instruction executes in, so s.pc is the instruction's address plus 2 (R94,
R96). -/

open Sys2Proof Sys2Proof.Machine

/-! ## Encoding (30_encoding.md) -/

/-- Decoding the word of a well-formed instruction gives it back, with every operand at every value (30_encoding.md §3, §6). -/
def Obligations.DecodeInvertsEncode : Prop :=
  ∀ i : Instr, i.wellFormed = true → decode (encode i) = .variant i

/-- A word that decodes to a variant is that variant's encoding but for the bits the variant ignores, and the variant is well
formed (30_encoding.md §2, R82). Which bits are ignored rests on decision D21 (log entry 14). -/
def Obligations.EncodeInvertsDecode : Prop :=
  ∀ (op : Word) (i : Instr), decode op = .variant i →
    i.wellFormed = true ∧ encode i = op &&& ~~~(ignoredBits i)

/-- A word is a variant exactly by its row's mask and match, with CLS and RET before SYS (the table of R79): what decode answers
matches its row; a word that matches a row other than SYS decodes to that row; a word of group 0 is SYS unless it is CLS or
RET. The masks of CLS, RET, 5XY- and 9XY- rest on decision D21 (log entry 14). -/
def Obligations.DecodeFollowsTheTable : Prop :=
  (∀ (op : Word) (i : Instr), decode op = .variant i → op &&& (rowOf i).1 = (rowOf i).2) ∧
  (∀ (op : Word) (j : Instr), (∀ nnn, j ≠ .sys nnn) → op &&& (rowOf j).1 = (rowOf j).2 →
    ∃ i, decode op = .variant i ∧ rowOf i = rowOf j) ∧
  (∀ op : Word, op &&& 0xF000#16 = 0#16 → op &&& 0xF0FF#16 ≠ 0x00E0#16 → op &&& 0xF0FF#16 ≠ 0x00EE#16 →
    decode op = .variant (.sys (opNNN op)))

/-- The Unassigned words are exactly the words of groups 8, E and F whose trailing nibble or byte is not in the table (the list
of R80), and decode answers Unassigned with the word itself. -/
def Obligations.UnassignedWordsAreThoseListed : Prop :=
  ∀ op w : Word, decode op = .unassigned w ↔
    w = op ∧
    ((opGroup op = 0x8 ∧ (opN op).val ∈ [0x8, 0x9, 0xA, 0xB, 0xC, 0xD, 0xF]) ∨
     (opGroup op = 0xE ∧ (opKK op).toNat ∉ [0x9E, 0xA1]) ∨
     (opGroup op = 0xF ∧ (opKK op).toNat ∉ [0x07, 0x0A, 0x15, 0x18, 0x1E, 0x29, 0x33, 0x55, 0x65]))

/-- Sanity: words written out in the examples of the rules decode to the instructions they stand for (30_encoding.md §2, §3,
§4). Group 0 and the groups decoded by the high nibble alone rest on decision D21 (log entry 14). -/
def Obligations.ExampleWordsDecode : Prop :=
  decode 0x0123#16 = .variant (.sys 0x123#12) ∧ decode 0x00E0#16 = .variant .cls ∧
  decode 0x0FEE#16 = .variant .ret ∧ decode 0x2300#16 = .variant (.call 0x300#12) ∧
  decode 0x3205#16 = .variant (.seImm 2 0x05#8) ∧ decode 0x8206#16 = .variant (.shr 2 0) ∧
  decode 0xA2F0#16 = .variant (.ldI 0x2F0#12) ∧ decode 0xD125#16 = .variant (.drw 1 2 5) ∧
  decode 0xE59E#16 = .variant (.skp 5) ∧ decode 0xF265#16 = .variant (.ldVxMem 2) ∧
  decode 0x8008#16 = .unassigned 0x8008#16

/-! ## The tick cycle (40_cycle.md) -/

/-- R52: the fetched word is the byte at PC as the high byte and the byte at PC + 1 as the low byte; with PC + 1 > 0xFFF no word
is read. -/
def Obligations.FetchIsBigEndian : Prop :=
  ∀ s : State,
    (s.pc.toNat + 1 ≤ 0xFFF → ∃ op, s.fetch = some op ∧
      op.toNat = (s.readByte (BitVec.ofNat 12 s.pc.toNat)).toNat * 256 +
        (s.readByte (BitVec.ofNat 12 (s.pc.toNat + 1))).toNat) ∧
    (0xFFF < s.pc.toNat + 1 → s.fetch = none)

/-- Where the two bytes at PC decode to an instruction, a step (a tick on an engine that has not faulted) is its execution in
the state with the call taken and PC advanced by 2, and then the end of the tick, which latches KEYS_SEEN where no fault was
raised (40_cycle.md, R90 to R98; the latch is decision D16, the list of calls log entry 2). -/
def Obligations.StepRunsTheDecodedInstruction : Prop :=
  ∀ (s : State) (i : Instr), CanFetch s →
    decodeBytes [s.readByte (BitVec.ofNat 12 s.pc.toNat), s.readByte (BitVec.ofNat 12 (s.pc.toNat + 1))] = .ok (i, []) →
    i.wellFormed = true →
    step s = endOutcome (exec i s.executing) ∧ s.executing.pc.toNat = s.pc.toNat + 2 ∧
      s.executing.calls = s.calls.tail ∧ OnlyChanges [.pc, .calls] s s.executing

/-- An Unassigned word changes nothing but PC, which advances by 2, and KEYS_SEEN, which becomes KEYS (40_cycle.md R97; the
latch is decision D16; the call taken is log entry 2). -/
def Obligations.UnassignedWordOnlyAdvances : Prop :=
  ∀ (s : State) (w : Word), CanFetch s → decode (s.readWord s.pc) = .unassigned w →
    ∃ t, step s = .next t ∧ OnlyChanges [.pc, .keysSeen, .calls] s t ∧
      t.pc.toNat = s.pc.toNat + 2 ∧ t.keysSeen = s.keys ∧ t.calls = s.calls.tail

/-- KEYS_SEEN <- KEYS at the end of every tick that completes; a tick that raises a fault leaves KEYS_SEEN (40_cycle.md R98,
decision D16; that the latter is a next state is log entry 1). -/
def Obligations.TickLatchesKeysUnlessItFaults : Prop :=
  ∀ s t : State, s.nextCall = .tick → s.fault = none → step s = .next t →
    (t.fault = none → t.keysSeen = s.keys) ∧ (t.fault ≠ none → t.keysSeen = s.keysSeen)

/-! ## Faults (60_exceptions.md) -/

/-- A tick with PC + 1 > 0xFFF raises FetchOutOfBounds with the PC fetched from, and changes nothing else (60_exceptions.md
§1, §2, decision D6; that it answers a next state is log entry 1, the call taken log entry 2). -/
def Obligations.FetchPastTheEndFaults : Prop :=
  ∀ s : State, s.nextCall = .tick → s.fault = none → 0xFFF < s.pc.toNat + 1 →
    ∃ t, step s = .next t ∧ OnlyChanges [.fault, .calls] s t ∧
      t.fault = some ⟨.fetchOutOfBounds, s.pc⟩ ∧ t.calls = s.calls.tail

/-- CALL with SP = 16 and RET with SP = 0 record their kind and their own address, leave PC advanced by 2, and change nothing
else of the engine; nothing is said of the host's further calls (60_exceptions.md §1, §2, decision D6; that the tick answers a
next state is log entry 1, that the address is PC − 2 at execution log entry 12). -/
def Obligations.StackFaultEntry : Prop :=
  ∀ s : State, CanFetch s →
    (∀ nnn, decode (s.readWord s.pc) = .variant (.call nnn) → s.sp.val = 16 →
      ∃ t, step s = .next t ∧ OnlyChanges [.fault, .pc, .calls] s t ∧
        t.fault = some ⟨.stackOverflow, s.pc⟩ ∧ t.pc.toNat = s.pc.toNat + 2) ∧
    (decode (s.readWord s.pc) = .variant .ret → s.sp.val = 0 →
      ∃ t, step s = .next t ∧ OnlyChanges [.fault, .pc, .calls] s t ∧
        t.fault = some ⟨.stackUnderflow, s.pc⟩ ∧ t.pc.toNat = s.pc.toNat + 2)

/-- Only three events raise a fault: a step from an engine that has not faulted to one that has is a tick, and it fetched past
the end, or ran CALL with SP = 16, or ran RET with SP = 0; FAULT then holds that kind and the PC the tick began at
(60_exceptions.md §1, §2, decision D6; that raising a fault is a next state is log entry 1). -/
def Obligations.OnlyThreeEventsRaiseFaults : Prop :=
  ∀ (s t : State) (f : FaultRecord), s.fault = none → step s = .next t → t.fault = some f →
    s.nextCall = .tick ∧ f.pc = s.pc ∧
    ((f.kind = .fetchOutOfBounds ∧ 0xFFF < s.pc.toNat + 1) ∨
     (f.kind = .stackOverflow ∧ s.pc.toNat + 1 ≤ 0xFFF ∧ s.sp.val = 16 ∧
        ∃ nnn, decode (s.readWord s.pc) = .variant (.call nnn)) ∨
     (f.kind = .stackUnderflow ∧ s.pc.toNat + 1 ≤ 0xFFF ∧ s.sp.val = 0 ∧
        decode (s.readWord s.pc) = .variant .ret))

/-- A tick on a faulted engine has no step: the model answers the fault `halted` with what FAULT holds (40_cycle.md R91,
decision D6; the outcome is log entry 1). -/
def Obligations.FaultedEngineHasNoTick : Prop :=
  ∀ (s : State) (f : FaultRecord), s.fault = some f → s.nextCall = .tick → step s = .fault (.halted f.kind f.pc)

/-- Until `reset` is called a fault lasts, whatever else the host calls, and no instruction runs: only what `load_program`,
`decrement_timers` and `set_keys` write can differ (60_exceptions.md §2, decisions D6, D24, D34; the list of the host's calls
is log entry 2). -/
def Obligations.FaultLastsUntilReset : Prop :=
  ∀ (n : Nat) (s t : State) (f : FaultRecord), s.fault = some f → HostOp.reset ∉ s.calls →
    Host.Core.run Sys2Proof.core n s = .next t →
    t.fault = some f ∧ OnlyChanges [.pc, .memory, .delayTimer, .soundTimer, .keys, .calls] s t

/-- Every step answers a next state, except a tick on a faulted engine; no step refuses (60_exceptions.md §1: no instruction
produces an error beyond the named ones; decision D6; which outcome each case has is log entry 1). -/
def Obligations.StepStopsOnlyOnAFaultedEngine : Prop :=
  ∀ s : State, (∃ t, step s = .next t) ∨
    (s.nextCall = .tick ∧ ∃ f, s.fault = some f ∧ step s = .fault (.halted f.kind f.pc))

/-! ## Invariants and whole-machine rules -/

/-- Every step, whichever host call it performs, keeps the invariant. That memory lies inside its 4096 bytes is 10_state.md
§6; its canonical form is the model's choice, log entry 7. PC at most 0x10FE is decision D2 (10_state.md §3) with D19
(41_control_flow.md §1). Every stack entry at most 0x1000 follows from 40_cycle.md R94 and 41_control_flow.md §1. Whichever
call: log entry 2. -/
def Obligations.StepKeepsTheInvariant : Prop :=
  ∀ s t : State, s.Inv → step s = .next t → t.Inv

/-- The state after construction, with any configuration, meets the invariant, and so does State.reset (10_state.md §11; what
the invariant rests on is said at StepKeepsTheInvariant; the configuration in State is log entry 3, the canonical form log
entry 7). -/
def Obligations.ConstructionMeetsTheInvariant : Prop :=
  (∀ c : Config, (State.construct c).Inv) ∧ State.reset.Inv

/-- Each piece of state is written only by its own instructions: I by ANNN, FX1E, FX29; STACK by CALL, SP and FAULT by CALL
and RET; DT by FX15 and ST by FX18 (so no instruction counts a timer down); memory by FX33 and FX55; the display by CLS and
DRW; KEYS and KEYS_SEEN by none (10_state.md §3 to §9, 45_keypad_timers.md §3; STACK is decision D5, KEYS_SEEN D16, FAULT D6).
The configuration is written by none (10_state.md §10, D25; its place in State is log entry 3). The model's own: the count of
draws by RND alone (log entry 4), the list of the host's calls by none (log entry 2). -/
def Obligations.EachPieceHasItsOwnWriters : Prop :=
  ∀ (i : Instr) (s t : State), exec i s = .next t →
    ((∀ nnn, i ≠ .ldI nnn) → (∀ x, i ≠ .addI x) → (∀ x, i ≠ .ldF x) → SamePiece s t .index) ∧
    ((∀ nnn, i ≠ .call nnn) → SamePiece s t .stack) ∧
    ((∀ nnn, i ≠ .call nnn) → i ≠ .ret → SamePiece s t .sp ∧ SamePiece s t .fault) ∧
    ((∀ x, i ≠ .ldDtVx x) → SamePiece s t .delayTimer) ∧
    ((∀ x, i ≠ .ldStVx x) → SamePiece s t .soundTimer) ∧
    ((∀ x, i ≠ .ldB x) → (∀ x, i ≠ .ldMemVx x) → SamePiece s t .memory) ∧
    (i ≠ .cls → (∀ x y n, i ≠ .drw x y n) → SamePiece s t .display) ∧
    ((∀ x kk, i ≠ .rnd x kk) → SamePiece s t .draws) ∧
    SamePiece s t .keys ∧ SamePiece s t .keysSeen ∧ SamePiece s t .config ∧ SamePiece s t .calls

/-- A register changes only where R22 and R23 list the instruction as its writer. -/
def Obligations.RegistersHaveTheListedWriters : Prop :=
  ∀ (i : Instr) (s t : State) (r : Reg), exec i s = .next t → t.getV r ≠ s.getV r → writesReg s.cfg i r = true

/-- During execution PC moves only by a jump, a call, a return, a skip (by 2) or FX0A's stay (back by 2) (10_state.md R26). -/
def Obligations.PcMovesOnlyByControlFlow : Prop :=
  ∀ (i : Instr) (s t : State), exec i s = .next t → t.pc ≠ s.pc →
    (∃ nnn, i = .jp nnn ∨ i = .call nnn ∨ i = .jpV0 nnn) ∨ i = .ret ∨
    (t.pc = s.pc + 2 ∧ ∃ x y kk, i = .seImm x kk ∨ i = .sneImm x kk ∨ i = .seReg x y ∨ i = .sneReg x y ∨
      i = .skp x ∨ i = .sknp x) ∨
    (t.pc = s.pc - 2 ∧ ∃ x, i = .ldVxK x)

/-- A step takes one host call from the list (log entry 2) and never changes the configuration (10_state.md §10, decision
D25; log entry 3); KEYS changes only by `set_keys` and `reset` (10_state.md §8). -/
def Obligations.StepTakesOneCallAndKeepsTheConfiguration : Prop :=
  ∀ s t : State, step s = .next t →
    t.calls = s.calls.tail ∧ t.cfg = s.cfg ∧
    (t.keys ≠ s.keys → s.nextCall = .reset ∨ s.nextCall = .setKeys t.keys)

/-- What the engine can do never depends on the stale stack entries, those at index SP and above: replaced by any words, the
same step happens and leaves the same state but for entries that are stale again (10_state.md §4, decision D5). -/
def Obligations.StaleStackEntriesAreNeverRead : Prop :=
  ∀ (s t : State) (stk : Vector Word 16),
    (∀ j : Fin 16, j.val < s.sp.val → stk[j.val] = s.stack[j.val]) → step s = .next t →
    ∃ stk' : Vector Word 16, step { s with stack := stk } = .next { t with stack := stk' } ∧
      ∀ j : Fin 16, j.val < t.sp.val → stk'[j.val] = t.stack[j.val]

/-! ## Reset (10_state.md §11, 70_reset_and_hazards.md §1) -/

/-- The values after construction and reset: every register, the stack, the timers, the display, the keys zero, no fault,
memory the FONT below 0x050 and zero above, and with the default parameters glyph 0's first byte 0xF0 and glyph F's last 0x80
(the table of 10_state.md §11; KEYS_SEEN and FAULT are decisions D16 and D22, the default font D14 and log entry 8; the
configuration in State is log entry 3, one state for construction and reset log entry 18). -/
def Obligations.ResetStateValues : Prop :=
  (∀ c : Config,
    let s := State.construct c
    (∀ r, s.getV r = 0) ∧ s.i = 0 ∧ s.pc = 0 ∧ (∀ j, s.stackEntry j = 0) ∧ s.sp = 0 ∧ s.dt = 0 ∧ s.st = 0 ∧
    (∀ a : Addr, s.readByte a = if h : a.toNat < 80 then c.font[a.toNat] else 0) ∧
    (∀ x y, s.disp.pixel x y = false) ∧ (∀ k : Fin 16, s.keys[k.val] = false ∧ s.keysSeen[k.val] = false) ∧
    s.fault = none ∧ s.cfg = c) ∧
  State.reset.cfg.quirkShiftVy = false ∧ State.reset.cfg.quirkAddiVf = false ∧
  State.reset.readByte 0x000#12 = 0xF0#8 ∧ State.reset.readByte 0x04F#12 = 0x80#8

/-- `reset()` brings every piece of the engine's state to its construction value, on a faulted engine too
(70_reset_and_hazards.md §1, decision D22). The configuration stays (log entry 3), the random source is not reseeded
(decisions D20, D22, log entry 4) and the host's further calls stay (log entry 2). -/
def Obligations.ResetRestoresConstruction : Prop :=
  ∀ (s : State) (rest : List HostOp), s.calls = .reset :: rest →
    ∃ t, step s = .next t ∧ OnlyChanges [.draws, .calls] (State.construct s.cfg) t ∧
      t.fault = none ∧ t.draws = s.draws ∧ t.calls = rest

/-! ## Control flow (41_control_flow.md) -/

/-- R100, R101: SYS changes nothing; JP sets PC to nnn, zero-extended, and changes nothing else; after a jump to 0xFFF the next
fetch finds no word. -/
def Obligations.SysDoesNothingAndJpSetsPc : Prop :=
  ∀ (nnn : Addr) (s : State),
    (∃ t, exec (.sys nnn) s = .next t ∧ OnlyChanges [] s t) ∧
    (∃ t, exec (.jp nnn) s = .next t ∧ OnlyChanges [.pc] s t ∧ t.pc.toNat = nnn.toNat ∧
      (nnn = 0xFFF#12 → t.fetch = none))

/-- JP V0 sets PC to nnn plus V[0], not masked to 12 bits (41_control_flow.md §1, decision D19), and changes nothing else. -/
def Obligations.JpV0AddsV0Unmasked : Prop :=
  ∀ (nnn : Addr) (s : State),
    ∃ t, exec (.jpV0 nnn) s = .next t ∧ OnlyChanges [.pc] s t ∧ t.pc.toNat = nnn.toNat + (s.getV 0).toNat

/-- CALL below the full stack stores the return address at index SP, increments SP and jumps (41_control_flow.md §1, §3; the
order is decision D5); nothing else changes. -/
def Obligations.CallPushesTheReturnAddress : Prop :=
  ∀ (nnn : Addr) (s : State), s.sp.val < 16 →
    ∃ t, exec (.call nnn) s = .next t ∧ OnlyChanges [.pc, .stack, .sp] s t ∧
      t.pc.toNat = nnn.toNat ∧ t.sp.val = s.sp.val + 1 ∧
      ∀ j : Fin 16, t.stackEntry j = if j.val = s.sp.val then s.pc else s.stackEntry j

/-- RET with an outstanding call decrements SP and sets PC to the entry at the new SP; the entries stay (41_control_flow.md §1,
§3, decision D5); nothing else changes. -/
def Obligations.RetPopsTheReturnAddress : Prop :=
  ∀ s : State, 0 < s.sp.val →
    ∃ t, exec .ret s = .next t ∧ OnlyChanges [.pc, .sp] s t ∧ t.sp.val + 1 = s.sp.val ∧
      ∃ j : Fin 16, j.val = t.sp.val ∧ t.pc = s.stackEntry j

/-- CALL followed immediately by RET restores PC to the instruction after the CALL and SP to its depth, and changes nothing
else but KEYS_SEEN and the stale stack entries, those at index SP and above, of which nothing is said (41_control_flow.md §1,
the source's property; D5, D16; that only ticks come is an empty list of calls, log entry 2). -/
def Obligations.CallThenRetReturns : Prop :=
  ∀ (s : State) (nnn : Addr), CanFetch s → s.calls = [] → s.sp.val < 16 → nnn.toNat + 1 ≤ 0xFFF →
    decode (s.readWord s.pc) = .variant (.call nnn) → decode (s.readWord (zext16 nnn)) = .variant .ret →
    ∃ t, Host.Core.run Sys2Proof.core 2 s = .next t ∧ t.pc.toNat = s.pc.toNat + 2 ∧ t.sp = s.sp ∧
      OnlyChanges [.pc, .stack, .keysSeen] s t ∧
      ∀ j : Fin 16, j.val < s.sp.val → t.stackEntry j = s.stackEntry j

/-- R105, R106: SE Vx, kk adds 2 to PC where V[x] = kk, SNE Vx, kk where not; nothing else changes. -/
def Obligations.ImmediateSkips : Prop :=
  ∀ (x : Reg) (kk : Byte) (s : State),
    (∃ t, exec (.seImm x kk) s = .next t ∧ OnlyChanges [.pc] s t ∧
      t.pc = if s.getV x = kk then s.pc + 2 else s.pc) ∧
    (∃ t, exec (.sneImm x kk) s = .next t ∧ OnlyChanges [.pc] s t ∧
      t.pc = if s.getV x = kk then s.pc else s.pc + 2)

/-- SE Vx, Vy adds 2 to PC where the registers are equal, SNE Vx, Vy where not (41_control_flow.md §2); so with x = y SE always
skips and SNE never; nothing else changes. -/
def Obligations.RegisterSkips : Prop :=
  ∀ (x y : Reg) (s : State),
    (∃ t, exec (.seReg x y) s = .next t ∧ OnlyChanges [.pc] s t ∧
      t.pc = (if s.getV x = s.getV y then s.pc + 2 else s.pc) ∧ (x = y → t.pc = s.pc + 2)) ∧
    (∃ t, exec (.sneReg x y) s = .next t ∧ OnlyChanges [.pc] s t ∧
      t.pc = (if s.getV x = s.getV y then s.pc else s.pc + 2) ∧ (x = y → t.pc = s.pc))

/-! ## Register loads and arithmetic (42_register_alu.md) -/

/-- R120, R122: LD Vx, kk and LD Vx, Vy set V[x] and change nothing else; VF only as the destination. -/
def Obligations.RegisterLoads : Prop :=
  ∀ (x y : Reg) (kk : Byte) (s : State),
    (∃ t, exec (.ldImm x kk) s = .next t ∧ OnlyChanges [.regs] s t ∧
      ∀ r, t.getV r = if r = x then kk else s.getV r) ∧
    (∃ t, exec (.ldReg x y) s = .next t ∧ OnlyChanges [.regs] s t ∧
      ∀ r, t.getV r = if r = x then s.getV y else s.getV r)

/-- ADD Vx, kk adds modulo 256 into V[x] and writes no flag (42_register_alu.md §1, decision D10); nothing else changes. -/
def Obligations.AddImmediateWrapsWithoutFlag : Prop :=
  ∀ (x : Reg) (kk : Byte) (s : State),
    ∃ t, exec (.addImm x kk) s = .next t ∧ OnlyChanges [.regs] s t ∧
      ∀ r, (t.getV r).toNat = if r = x then ((s.getV x).toNat + kk.toNat) % 256 else (s.getV r).toNat

/-- OR, AND, XOR combine V[x] and V[y] bit by bit into V[x]; VF is not reset (42_register_alu.md §2, decision D9); nothing else
changes. -/
def Obligations.LogicIsBitwise : Prop :=
  ∀ (x y : Reg) (s : State),
    (∃ t, exec (.orReg x y) s = .next t ∧ OnlyChanges [.regs] s t ∧ (∀ r, r ≠ x → t.getV r = s.getV r) ∧
      ∀ b, (t.getV x).getLsbD b = ((s.getV x).getLsbD b || (s.getV y).getLsbD b)) ∧
    (∃ t, exec (.andReg x y) s = .next t ∧ OnlyChanges [.regs] s t ∧ (∀ r, r ≠ x → t.getV r = s.getV r) ∧
      ∀ b, (t.getV x).getLsbD b = ((s.getV x).getLsbD b && (s.getV y).getLsbD b)) ∧
    (∃ t, exec (.xorReg x y) s = .next t ∧ OnlyChanges [.regs] s t ∧ (∀ r, r ≠ x → t.getV r = s.getV r) ∧
      ∀ b, (t.getV x).getLsbD b = ((s.getV x).getLsbD b != (s.getV y).getLsbD b))

/-- ADD Vx, Vy: V[x] is the sum modulo 256 and VF the carry, VF written last and from the old operands (42_register_alu.md §3;
the order, which decides x = 15, is decision D8); nothing else changes. -/
def Obligations.AddSetsCarry : Prop :=
  ∀ (x y : Reg) (s : State),
    ∃ t, exec (.addReg x y) s = .next t ∧ OnlyChanges [.regs] s t ∧
      ∀ r, (t.getV r).toNat =
        if r = 15 then (if (s.getV x).toNat + (s.getV y).toNat > 0xFF then 1 else 0)
        else if r = x then ((s.getV x).toNat + (s.getV y).toNat) % 256
        else (s.getV r).toNat

/-- SUB and SUBN: the difference modulo 256 to V[x] and NOT borrow to VF, VF written last and from the old operands
(42_register_alu.md §3; the order is decision D8); nothing else changes. -/
def Obligations.SubtractSetsNoBorrow : Prop :=
  ∀ (x y : Reg) (s : State),
    (∃ t, exec (.subReg x y) s = .next t ∧ OnlyChanges [.regs] s t ∧
      ∀ r, (t.getV r).toNat =
        if r = 15 then (if (s.getV y).toNat ≤ (s.getV x).toNat then 1 else 0)
        else if r = x then ((s.getV x).toNat + 0x100 - (s.getV y).toNat) % 256
        else (s.getV r).toNat) ∧
    (∃ t, exec (.subn x y) s = .next t ∧ OnlyChanges [.regs] s t ∧
      ∀ r, (t.getV r).toNat =
        if r = 15 then (if (s.getV x).toNat ≤ (s.getV y).toNat then 1 else 0)
        else if r = x then ((s.getV y).toNat + 0x100 - (s.getV x).toNat) % 256
        else (s.getV r).toNat)

/-- SHR and SHL shift the source, V[x] or V[y] by QUIRK_SHIFT_VY (decision D11), into V[x] and the bit shifted out into VF,
written last (42_register_alu.md §3; decision D8); nothing else changes. -/
def Obligations.ShiftsSetTheDroppedBit : Prop :=
  ∀ (x y : Reg) (s : State),
    let src := (if s.cfg.quirkShiftVy = true then s.getV y else s.getV x).toNat
    (∃ t, exec (.shr x y) s = .next t ∧ OnlyChanges [.regs] s t ∧
      ∀ r, (t.getV r).toNat = if r = 15 then src % 2 else if r = x then src / 2 else (s.getV r).toNat) ∧
    (∃ t, exec (.shl x y) s = .next t ∧ OnlyChanges [.regs] s t ∧
      ∀ r, (t.getV r).toNat =
        if r = 15 then src / 128 else if r = x then src * 2 % 256 else (s.getV r).toNat)

/-- RND puts the drawn byte AND kk into V[x], so no bit that kk lacks; it takes one draw and changes nothing else. The drawn
byte is the free value that State.rand reads, Config.randomByte at the count of draws, of which nothing is known, so this holds
for every draw (42_register_alu.md §4, decision D20; the form of the draw is the model's choice, log entry 4). -/
def Obligations.RandomByteIsMasked : Prop :=
  ∀ (x : Reg) (kk : Byte) (s : State),
    ∃ t : State, exec (.rnd x kk) s = .next t ∧ OnlyChanges [.regs, .draws] s t ∧ t.draws = s.draws + 1 ∧
      s.rand.1 = Config.randomByte s.draws ∧
      (∀ q, t.getV q = if q = x then s.rand.1 &&& kk else s.getV q) ∧
      ∀ b, (t.getV x).getLsbD b = true → kk.getLsbD b = true

/-! ## Index register and memory (43_index_memory.md) -/

/-- R150: LD I, nnn sets I to nnn, zero-extended, and changes nothing else. -/
def Obligations.LoadIndex : Prop :=
  ∀ (nnn : Addr) (s : State),
    ∃ t, exec (.ldI nnn) s = .next t ∧ OnlyChanges [.index] s t ∧ t.i.toNat = nnn.toNat

/-- ADD I, Vx adds modulo 65536; VF becomes the 12-bit overflow, written last, only under QUIRK_ADDI_VF (43_index_memory.md §1,
decision D12); nothing else changes. -/
def Obligations.AddToIndex : Prop :=
  ∀ (x : Reg) (s : State),
    ∃ t, exec (.addI x) s = .next t ∧ OnlyChanges [.index, .regs] s t ∧
      t.i.toNat = (s.i.toNat + (s.getV x).toNat) % 65536 ∧
      ∀ r, (t.getV r).toNat =
        if s.cfg.quirkAddiVf = true ∧ r = 15 then (if s.i.toNat + (s.getV x).toNat > 0xFFF then 1 else 0)
        else (s.getV r).toNat

/-- LD F, Vx sets I to 5 times the low nibble of V[x] (43_index_memory.md §1; the nibble is decision D13) and changes nothing
else; with the construction memory, which lists nothing (log entry 7), the byte there is the first byte of that glyph of FONT.
-/
def Obligations.GlyphAddress : Prop :=
  ∀ (x : Reg) (s : State),
    ∃ t, exec (.ldF x) s = .next t ∧ OnlyChanges [.index] s t ∧ t.i.toNat = 5 * ((s.getV x).toNat % 16) ∧
      (s.mem = [] → ∃ h : 5 * ((s.getV x).toNat % 16) < 80,
        t.readByte (t.ea 0) = s.cfg.font[5 * ((s.getV x).toNat % 16)])

/-- LD B, Vx on canonical memory (log entry 7): hundreds, tens and ones of V[x] at EA(0), EA(1), EA(2), every other byte and
everything else as before, I too (43_index_memory.md §2; the masking of EA is decision D3). -/
def Obligations.BcdStoresThreeDigits : Prop :=
  ∀ (x : Reg) (s : State), Memory.wf s.cfg.font s.mem →
    ∃ t, exec (.ldB x) s = .next t ∧ OnlyChanges [.memory] s t ∧
      ∀ a, (t.readByte a).toNat =
        if a = s.ea 0 then (s.getV x).toNat / 100
        else if a = s.ea 1 then (s.getV x).toNat / 10 % 10
        else if a = s.ea 2 then (s.getV x).toNat % 10
        else (s.readByte a).toNat

/-- LD [I], Vx on canonical memory (log entry 7): V[k] at EA(k) for every k up to x, every other byte and everything else as
before, I too (43_index_memory.md §2; the masking of EA is decision D3). -/
def Obligations.StoreRegisters : Prop :=
  ∀ (x : Reg) (s : State), Memory.wf s.cfg.font s.mem →
    ∃ t, exec (.ldMemVx x) s = .next t ∧ OnlyChanges [.memory] s t ∧
      (∀ k : Reg, k ≤ x → t.readByte (s.ea k.val) = s.getV k) ∧
      ∀ a, (∀ k : Reg, k ≤ x → a ≠ s.ea k.val) → t.readByte a = s.readByte a

/-- LD Vx, [I]: V[k] is the byte at EA(k) for every k up to x, the other registers and everything else as before, I and memory
too (43_index_memory.md §2; the masking of EA is decision D3). -/
def Obligations.LoadRegisters : Prop :=
  ∀ (x : Reg) (s : State),
    ∃ t, exec (.ldVxMem x) s = .next t ∧ OnlyChanges [.regs] s t ∧
      ∀ r : Reg, t.getV r = if r ≤ x then s.readByte (s.ea r.val) else s.getV r

/-- What LD [I], Vx stored on canonical memory (log entry 7), LD Vx, [I] brings back, whatever happened to the registers
between (43_index_memory.md §2; the masking of EA is decision D3). -/
def Obligations.StoreThenLoadRestoresRegisters : Prop :=
  ∀ (x : Reg) (s t u : State), Memory.wf s.cfg.font s.mem → exec (.ldMemVx x) s = .next t → OnlyChanges [.regs] t u →
    ∃ w, exec (.ldVxMem x) u = .next w ∧ ∀ r : Reg, r ≤ x → w.getV r = s.getV r

/-- A store to the next instruction's word is what the very next tick fetches (20_memory.md §7, decision D26): after LD [I],
Vx with x at least 1 and EA(0) the address after it, on canonical memory (log entry 7), the fetch gives the word of V[0] and
V[1]. -/
def Obligations.NextFetchSeesTheStore : Prop :=
  ∀ (s : State) (x : Reg), CanFetch s → Memory.wf s.cfg.font s.mem →
    decode (s.readWord s.pc) = .variant (.ldMemVx x) → 1 ≤ x.val → s.pc.toNat + 3 ≤ 0xFFF →
    (s.ea 0).toNat = s.pc.toNat + 2 →
    ∃ t, step s = .next t ∧ t.fetch = some (wordOfBytes (s.getV 0) (s.getV 1))

/-! ## Display (44_display.md) -/

/-- R170: CLS turns every pixel off and changes nothing else, VF neither. -/
def Obligations.ClsClearsTheDisplay : Prop :=
  ∀ s : State, ∃ t, exec .cls s = .next t ∧ OnlyChanges [.display] s t ∧ ∀ px py, t.disp.pixel px py = false

/-- DRW flips exactly the pixels a set sprite bit covers inside the display, and VF is 1 exactly where one of them was on, else
0; the coordinates and sprite are those before VF is written; nothing else changes. It covers n = 0, which draws nothing and
sets VF to 0 (44_display.md §2, decisions D17, D18, D3). -/
def Obligations.DrawFlipsTheSprite : Prop :=
  ∀ (x y : Reg) (n : Fin 16) (s : State),
    ∃ t, exec (.drw x y n) s = .next t ∧ OnlyChanges [.regs, .display] s t ∧
      (∀ px py, t.disp.pixel px py ≠ s.disp.pixel px py ↔ SpriteCovers s x y n px py) ∧
      (∀ r, r ≠ 15 → t.getV r = s.getV r) ∧
      ((∃ px py, SpriteCovers s x y n px py ∧ s.disp.pixel px py = true) → t.getV 15 = 1) ∧
      ((∀ px py, SpriteCovers s x y n px py → s.disp.pixel px py = false) → t.getV 15 = 0)

/-- Drawing the same sprite twice at the same place restores every pixel, and the second draw sets VF to 1 exactly where some
covered pixel was off before the first (44_display.md §2, which derives it from the drawing rules). -/
def Obligations.DrawTwiceRestoresTheDisplay : Prop :=
  ∀ (x y : Reg) (n : Fin 16) (s t : State), exec (.drw x y n) s = .next t →
    (t.getV x).toNat % 64 = (s.getV x).toNat % 64 → (t.getV y).toNat % 32 = (s.getV y).toNat % 32 →
    ∃ u, exec (.drw x y n) t = .next u ∧ (∀ px py, u.disp.pixel px py = s.disp.pixel px py) ∧
      (u.getV 15 = 1 ↔ ∃ px py, SpriteCovers s x y n px py ∧ s.disp.pixel px py = false)

/-! ## Keypad and timer instructions (45_keypad_timers.md) -/

/-- SKP adds 2 to PC where the key named by the low nibble of V[x] is pressed, SKNP where it is not (45_keypad_timers.md §1; the
nibble is decision D15); nothing else changes. -/
def Obligations.KeySkips : Prop :=
  ∀ (x : Reg) (s : State) (k : Fin 16), (s.getV x).toNat % 16 = k.val →
    (∃ t, exec (.skp x) s = .next t ∧ OnlyChanges [.pc] s t ∧
      t.pc = if s.keys[k.val] = true then s.pc + 2 else s.pc) ∧
    (∃ t, exec (.sknp x) s = .next t ∧ OnlyChanges [.pc] s t ∧
      t.pc = if s.keys[k.val] = true then s.pc else s.pc + 2)

/-- FX0A: the lowest key with a press transition goes to V[x] and nothing else changes; with none, PC goes back by 2 and nothing
else changes (45_keypad_timers.md §2; the transition and the lowest key are decision D16). -/
def Obligations.WaitForKeyPress : Prop :=
  ∀ (x : Reg) (s : State),
    ∃ t, exec (.ldVxK x) s = .next t ∧
      (∀ k : Fin 16, PressTransition s k → (∀ j, j < k → ¬PressTransition s j) →
        OnlyChanges [.regs] s t ∧ ∀ r, (t.getV r).toNat = if r = x then k.val else (s.getV r).toNat) ∧
      ((∀ k, ¬PressTransition s k) → OnlyChanges [.pc] s t ∧ t.pc = s.pc - 2)

/-- A whole tick of a waiting FX0A leaves everything of the engine as it was, PC too, but for the latch of KEYS_SEEN: the wait
can go on forever; nothing is said of the host's further calls (45_keypad_timers.md §2, 70_reset_and_hazards.md §4; D16). -/
def Obligations.KeyWaitStaysAtItsInstruction : Prop :=
  ∀ (s : State) (x : Reg), CanFetch s → decode (s.readWord s.pc) = .variant (.ldVxK x) →
    (∀ k, ¬PressTransition s k) →
    ∃ t, step s = .next t ∧ OnlyChanges [.keysSeen, .calls] s t ∧ t.keysSeen = s.keys

/-- R195, R196, R197: FX07 reads DT into V[x], FX15 sets DT from V[x], FX18 sets ST from V[x]; nothing else changes. -/
def Obligations.TimerMoves : Prop :=
  ∀ (x : Reg) (s : State),
    (∃ t, exec (.ldVxDt x) s = .next t ∧ OnlyChanges [.regs] s t ∧
      ∀ r, t.getV r = if r = x then s.dt else s.getV r) ∧
    (∃ t, exec (.ldDtVx x) s = .next t ∧ OnlyChanges [.delayTimer] s t ∧ t.dt = s.getV x) ∧
    (∃ t, exec (.ldStVx x) s = .next t ∧ OnlyChanges [.soundTimer] s t ∧ t.st = s.getV x ∧
      (t.soundTimerActive = true ↔ 0 < (s.getV x).toNat))

/-! ## Host operations (60_exceptions.md §4, §6; 70_reset_and_hazards.md §2, §3) -/

/-- `decrement_timers` called n times takes n from DT and from ST, never below 0, and changes nothing else, on a faulted
engine too (60_exceptions.md §4, decision D24; the list of calls is log entry 2). -/
def Obligations.DecrementTimersStopsAtZero : Prop :=
  ∀ (n : Nat) (s : State) (rest : List HostOp), s.calls = List.replicate n .decrementTimers ++ rest →
    ∃ t, Host.Core.run Sys2Proof.core n s = .next t ∧ OnlyChanges [.delayTimer, .soundTimer, .calls] s t ∧
      t.calls = rest ∧ t.dt.toNat = s.dt.toNat - n ∧ t.st.toNat = s.st.toNat - n

/-- `set_keys(k)` replaces the whole snapshot and changes nothing else, KEYS_SEEN neither (60_exceptions.md §6, decisions D16,
D27; the list of calls is log entry 2). -/
def Obligations.SetKeysReplacesTheSnapshot : Prop :=
  ∀ (s : State) (k : Keys) (rest : List HostOp), s.calls = .setKeys k :: rest →
    ∃ t, step s = .next t ∧ OnlyChanges [.keys, .calls] s t ∧ t.keys = k ∧ t.calls = rest

/-- `load_program` of at most 3584 bytes, on canonical memory (log entry 7), answers ok, puts byte i at 0x200 + i and PC to
0x200, and changes nothing else, on a faulted engine too (70_reset_and_hazards.md §2, decisions D23, D34; the list of calls is
log entry 2, the answer beside the step log entry 16). -/
def Obligations.LoadProgramCopiesTheImage : Prop :=
  ∀ (s : State) (bytes : List Byte) (rest : List HostOp), s.calls = .loadProgram bytes :: rest →
    bytes.length ≤ 3584 → Memory.wf s.cfg.font s.mem →
    (s.loadProgram bytes).1 = .ok ∧
    ∃ t, step s = .next t ∧ OnlyChanges [.memory, .pc, .calls] s t ∧ t.pc.toNat = 0x200 ∧ t.calls = rest ∧
      ∀ a : Addr, t.readByte a =
        if h : 0x200 ≤ a.toNat ∧ a.toNat < 0x200 + bytes.length then bytes[a.toNat - 0x200] else s.readByte a

/-- `load_program` of more than 3584 bytes answers LoadError and changes nothing of the engine (70_reset_and_hazards.md §2).
The model's choices: the answer is a function beside the step (log entry 16), and the step takes the call from the list of
calls (log entry 2). -/
def Obligations.LoadErrorChangesNothing : Prop :=
  ∀ (s : State) (bytes : List Byte) (rest : List HostOp), s.calls = .loadProgram bytes :: rest →
    3584 < bytes.length →
    (s.loadProgram bytes).1 = .loadError ∧
    ∃ t, step s = .next t ∧ OnlyChanges [.calls] s t ∧ t.calls = rest

/-- What the host reads: the display row-major with index y * 64 + x, the sound while ST > 0, and the fault status, code 0
while none, then 1, 2, 3 with the recorded pc (60_exceptions.md §1, §2, §6; decisions D7, D31, D33; that the reads are
functions of State is log entry 16). -/
def Obligations.HostReads : Prop :=
  ∀ s : State,
    s.displayView.length = 2048 ∧
    (∀ (x : Fin 64) (y : Fin 32), s.displayView[y.val * 64 + x.val]? = some (s.disp.pixel x y)) ∧
    (s.soundTimerActive = true ↔ 0 < s.st.toNat) ∧
    (s.faultStatus.1 = 0 ↔ s.fault = none) ∧
    (∀ a, s.fault = some ⟨.stackOverflow, a⟩ → s.faultStatus = (1, some a)) ∧
    (∀ a, s.fault = some ⟨.stackUnderflow, a⟩ → s.faultStatus = (2, some a)) ∧
    (∀ a, s.fault = some ⟨.fetchOutOfBounds, a⟩ → s.faultStatus = (3, some a))

/-- A finished run (a jump to itself at PC) stays finished under ticks, and nothing of the engine changes but KEYS_SEEN
(70_reset_and_hazards.md §3, decisions D16, D32). -/
def Obligations.FinishedRunStays : Prop :=
  ∀ s : State, s.runStatus = .finished → s.nextCall = .tick →
    ∃ t, step s = .next t ∧ OnlyChanges [.keysSeen, .calls] s t ∧ t.runStatus = .finished
end

