-- ==== Sys2Proof/Laws/Decode.lean ====
section
/-! SUPPORT. The fields of a word and the words of the three formats as numbers, so that omega decides what decode reads; the
fields of an encoded word are the operands it was built from; the bytes of a word give the word back. -/

namespace Sys2Proof

/-! ### Fields as numbers (R71) -/

theorem opGroup_eq (op : Word) : opGroup op = op.toNat / 4096 := by
  have := op.isLt
  simp only [opGroup, BitVec.extractLsb'_toNat, Nat.shiftRight_eq_div_pow]
  omega

theorem opX_val (op : Word) : (opX op).val = op.toNat / 256 % 16 := by
  simp [opX, Nat.shiftRight_eq_div_pow]

theorem opY_val (op : Word) : (opY op).val = op.toNat / 16 % 16 := by
  simp [opY, Nat.shiftRight_eq_div_pow]

theorem opN_val (op : Word) : (opN op).val = op.toNat % 16 := by
  simp [opN]

theorem opKK_toNat (op : Word) : (opKK op).toNat = op.toNat % 256 := by
  simp [opKK, BitVec.extractLsb'_toNat]

theorem opNNN_toNat (op : Word) : (opNNN op).toNat = op.toNat % 4096 := by
  simp [opNNN, BitVec.extractLsb'_toNat]

theorem trailingByte_toNat (nnn : Addr) : (trailingByte nnn).toNat = nnn.toNat % 256 := by
  simp [trailingByte, BitVec.toNat_setWidth]

/-! ### Words as numbers (R71) -/

theorem toNat_append_add {n m : Nat} (a : BitVec n) (b : BitVec m) : (a ++ b).toNat = a.toNat * 2 ^ m + b.toNat := by
  rw [BitVec.toNat_append, ← Nat.shiftLeft_add_eq_or_of_lt b.isLt, Nat.shiftLeft_eq]

@[simp] theorem nibble_toNat (x : Fin 16) : (nibble x).toNat = x.val := rfl

theorem encodeNNN_toNat (g : BitVec 4) (nnn : Addr) : (encodeNNN g nnn).toNat = g.toNat * 4096 + nnn.toNat :=
  toNat_append_add g nnn

theorem encodeXKK_toNat (g : BitVec 4) (x : Reg) (kk : Byte) :
    (encodeXKK g x kk).toNat = g.toNat * 4096 + x.val * 256 + kk.toNat := by
  have h1 := toNat_append_add (g ++ nibble x) kk
  rw [toNat_append_add g (nibble x), nibble_toNat] at h1
  have h2 : (encodeXKK g x kk).toNat = _ := h1
  rw [h2]; omega

theorem encodeXYN_toNat (g : BitVec 4) (x y : Reg) (n : Fin 16) :
    (encodeXYN g x y n).toNat = g.toNat * 4096 + x.val * 256 + y.val * 16 + n.val := by
  have h1 := toNat_append_add (g ++ nibble x ++ nibble y) (nibble n)
  rw [toNat_append_add (g ++ nibble x) (nibble y), toNat_append_add g (nibble x)] at h1
  simp only [nibble_toNat] at h1
  have h2 : (encodeXYN g x y n).toNat = _ := h1
  rw [h2]; omega

theorem wordOfBytes_toNat (hi lo : Byte) : (wordOfBytes hi lo).toNat = hi.toNat * 256 + lo.toNat :=
  toNat_append_add hi lo

theorem highByte_toNat (op : Word) : (highByte op).toNat = op.toNat / 256 := by
  have := op.isLt
  simp only [highByte, BitVec.extractLsb'_toNat, Nat.shiftRight_eq_div_pow]
  omega

theorem lowByte_toNat (op : Word) : (lowByte op).toNat = op.toNat % 256 := by
  simp [lowByte, BitVec.extractLsb'_toNat]

/-! ### The masks of R79 and R82 as numbers -/

theorem mask_low (op : Word) (k : Nat) (hk : k ≤ 16) :
    (op &&& BitVec.ofNat 16 (2 ^ k - 1)).toNat = op.toNat % 2 ^ k := by
  have h : 2 ^ k ≤ 2 ^ 16 := Nat.pow_le_pow_right (by decide) hk
  have h0 : 0 < 2 ^ k := Nat.two_pow_pos k
  rw [BitVec.toNat_and, BitVec.toNat_ofNat, Nat.mod_eq_of_lt (by omega), Nat.and_two_pow_sub_one_eq_mod]

theorem mask_high (op : Word) : (op &&& 0xF000#16).toNat = op.toNat / 4096 * 4096 := by
  have hsplit : (op &&& 0xF000#16) + (op &&& 0x0FFF#16) = op := by
    rw [BitVec.add_eq_or_of_and_eq_zero, ← BitVec.and_or_distrib_left]
    · exact BitVec.and_allOnes
    · rw [show (op &&& 0xF000#16) &&& (op &&& 0x0FFF#16) = (op &&& op) &&& (0xF000#16 &&& 0x0FFF#16) by ac_rfl]
      simp
  have hlow : (op &&& 0x0FFF#16).toNat = op.toNat % 4096 := mask_low op 12 (by decide)
  have hle : (op &&& 0xF000#16).toNat ≤ op.toNat := by rw [BitVec.toNat_and]; exact Nat.and_le_left
  have h := congrArg BitVec.toNat hsplit
  rw [BitVec.toNat_add, hlow] at h
  have := op.isLt
  omega

theorem mask_parts (op a b : Word) (h : a &&& b = 0#16) :
    (op &&& (a ||| b)).toNat = (op &&& a).toNat + (op &&& b).toNat := by
  have hz : (op &&& a) &&& (op &&& b) = 0#16 := by
    rw [show (op &&& a) &&& (op &&& b) = (op &&& op) &&& (a &&& b) by ac_rfl, h]; simp
  rw [BitVec.and_or_distrib_left, BitVec.toNat_or, ← BitVec.toNat_or, ← BitVec.add_eq_or_of_and_eq_zero _ _ hz]
  exact BitVec.toNat_add_of_and_eq_zero hz

theorem mask_F00F (op : Word) : (op &&& 0xF00F#16).toNat = op.toNat / 4096 * 4096 + op.toNat % 16 := by
  have := mask_parts op 0xF000#16 0x000F#16 (by decide)
  rw [show (0xF000#16 ||| 0x000F#16 : Word) = 0xF00F#16 by decide, mask_high,
    show (op &&& 0x000F#16).toNat = op.toNat % 16 from mask_low op 4 (by decide)] at this
  exact this

theorem mask_F0FF (op : Word) : (op &&& 0xF0FF#16).toNat = op.toNat / 4096 * 4096 + op.toNat % 256 := by
  have := mask_parts op 0xF000#16 0x00FF#16 (by decide)
  rw [show (0xF000#16 ||| 0x00FF#16 : Word) = 0xF0FF#16 by decide, mask_high,
    show (op &&& 0x00FF#16).toNat = op.toNat % 256 from mask_low op 8 (by decide)] at this
  exact this

/-! ### The fields of an encoded word -/

@[simp] theorem opGroup_encodeNNN (g : BitVec 4) (nnn : Addr) : opGroup (encodeNNN g nnn) = g.toNat := by
  rw [opGroup_eq, encodeNNN_toNat]; have := nnn.isLt; omega

@[simp] theorem opNNN_encodeNNN (g : BitVec 4) (nnn : Addr) : opNNN (encodeNNN g nnn) = nnn := by
  apply BitVec.eq_of_toNat_eq; rw [opNNN_toNat, encodeNNN_toNat]; have := nnn.isLt; omega

@[simp] theorem opKK_encodeNNN (g : BitVec 4) (nnn : Addr) : opKK (encodeNNN g nnn) = trailingByte nnn := by
  apply BitVec.eq_of_toNat_eq; rw [opKK_toNat, encodeNNN_toNat, trailingByte_toNat]; omega

@[simp] theorem opGroup_encodeXKK (g : BitVec 4) (x : Reg) (kk : Byte) : opGroup (encodeXKK g x kk) = g.toNat := by
  rw [opGroup_eq, encodeXKK_toNat]; have := kk.isLt; have := x.isLt; omega

@[simp] theorem opX_encodeXKK (g : BitVec 4) (x : Reg) (kk : Byte) : opX (encodeXKK g x kk) = x := by
  apply Fin.ext; rw [opX_val, encodeXKK_toNat]; have := kk.isLt; have := x.isLt; omega

@[simp] theorem opKK_encodeXKK (g : BitVec 4) (x : Reg) (kk : Byte) : opKK (encodeXKK g x kk) = kk := by
  apply BitVec.eq_of_toNat_eq; rw [opKK_toNat, encodeXKK_toNat]; have := kk.isLt; omega

@[simp] theorem opGroup_encodeXYN (g : BitVec 4) (x y : Reg) (n : Fin 16) : opGroup (encodeXYN g x y n) = g.toNat := by
  rw [opGroup_eq, encodeXYN_toNat]; omega

@[simp] theorem opX_encodeXYN (g : BitVec 4) (x y : Reg) (n : Fin 16) : opX (encodeXYN g x y n) = x := by
  apply Fin.ext; rw [opX_val, encodeXYN_toNat]; omega

@[simp] theorem opY_encodeXYN (g : BitVec 4) (x y : Reg) (n : Fin 16) : opY (encodeXYN g x y n) = y := by
  apply Fin.ext; rw [opY_val, encodeXYN_toNat]; omega

@[simp] theorem opN_encodeXYN (g : BitVec 4) (x y : Reg) (n : Fin 16) : opN (encodeXYN g x y n) = n := by
  apply Fin.ext; rw [opN_val, encodeXYN_toNat]; omega

/-! ### Bytes and words -/

@[simp] theorem wordOfBytes_highByte_lowByte (op : Word) : wordOfBytes (highByte op) (lowByte op) = op := by
  apply BitVec.eq_of_toNat_eq; rw [wordOfBytes_toNat, highByte_toNat, lowByte_toNat]; omega

@[simp] theorem highByte_wordOfBytes (hi lo : Byte) : highByte (wordOfBytes hi lo) = hi := by
  apply BitVec.eq_of_toNat_eq; rw [highByte_toNat, wordOfBytes_toNat]; have := lo.isLt; omega

@[simp] theorem lowByte_wordOfBytes (hi lo : Byte) : lowByte (wordOfBytes hi lo) = lo := by
  apply BitVec.eq_of_toNat_eq; rw [lowByte_toNat, wordOfBytes_toNat]; have := lo.isLt; omega

/-- The byte decoder consumes exactly two bytes and reads them as one word. -/
theorem decodeBytes_cons (hi lo : Byte) (rest : List Byte) :
    decodeBytes (hi :: lo :: rest) = match decode (wordOfBytes hi lo) with
      | .variant i => .ok (i, rest)
      | .unassigned op => .error (.unassigned op) := rfl

end Sys2Proof
end

