-- ==== Sys2Proof/Laws/State.lean ====
section
/-! SUPPORT. For every named update of the state one lemma per field, true by rfl, so that no proof unfolds a record update;
and the read-after-write laws of the register file, the stack and the display. -/

namespace Sys2Proof.Machine

/-! ### setV -/

@[simp] theorem State.setV_v (s : State) (x : Reg) (b : Byte) : (s.setV x b).v = s.v.set x.val b := rfl
@[simp] theorem State.setV_i (s : State) (x : Reg) (b : Byte) : (s.setV x b).i = s.i := rfl
@[simp] theorem State.setV_pc (s : State) (x : Reg) (b : Byte) : (s.setV x b).pc = s.pc := rfl
@[simp] theorem State.setV_stack (s : State) (x : Reg) (b : Byte) : (s.setV x b).stack = s.stack := rfl
@[simp] theorem State.setV_sp (s : State) (x : Reg) (b : Byte) : (s.setV x b).sp = s.sp := rfl
@[simp] theorem State.setV_dt (s : State) (x : Reg) (b : Byte) : (s.setV x b).dt = s.dt := rfl
@[simp] theorem State.setV_st (s : State) (x : Reg) (b : Byte) : (s.setV x b).st = s.st := rfl
@[simp] theorem State.setV_mem (s : State) (x : Reg) (b : Byte) : (s.setV x b).mem = s.mem := rfl
@[simp] theorem State.setV_disp (s : State) (x : Reg) (b : Byte) : (s.setV x b).disp = s.disp := rfl
@[simp] theorem State.setV_keys (s : State) (x : Reg) (b : Byte) : (s.setV x b).keys = s.keys := rfl
@[simp] theorem State.setV_keysSeen (s : State) (x : Reg) (b : Byte) : (s.setV x b).keysSeen = s.keysSeen := rfl
@[simp] theorem State.setV_fault (s : State) (x : Reg) (b : Byte) : (s.setV x b).fault = s.fault := rfl
@[simp] theorem State.setV_cfg (s : State) (x : Reg) (b : Byte) : (s.setV x b).cfg = s.cfg := rfl
@[simp] theorem State.setV_draws (s : State) (x : Reg) (b : Byte) : (s.setV x b).draws = s.draws := rfl
@[simp] theorem State.setV_calls (s : State) (x : Reg) (b : Byte) : (s.setV x b).calls = s.calls := rfl

/-! ### setVF -/

@[simp] theorem State.setVF_v (s : State) (b : Byte) : (s.setVF b).v = s.v.set 15 b := rfl
@[simp] theorem State.setVF_i (s : State) (b : Byte) : (s.setVF b).i = s.i := rfl
@[simp] theorem State.setVF_pc (s : State) (b : Byte) : (s.setVF b).pc = s.pc := rfl
@[simp] theorem State.setVF_stack (s : State) (b : Byte) : (s.setVF b).stack = s.stack := rfl
@[simp] theorem State.setVF_sp (s : State) (b : Byte) : (s.setVF b).sp = s.sp := rfl
@[simp] theorem State.setVF_dt (s : State) (b : Byte) : (s.setVF b).dt = s.dt := rfl
@[simp] theorem State.setVF_st (s : State) (b : Byte) : (s.setVF b).st = s.st := rfl
@[simp] theorem State.setVF_mem (s : State) (b : Byte) : (s.setVF b).mem = s.mem := rfl
@[simp] theorem State.setVF_disp (s : State) (b : Byte) : (s.setVF b).disp = s.disp := rfl
@[simp] theorem State.setVF_keys (s : State) (b : Byte) : (s.setVF b).keys = s.keys := rfl
@[simp] theorem State.setVF_keysSeen (s : State) (b : Byte) : (s.setVF b).keysSeen = s.keysSeen := rfl
@[simp] theorem State.setVF_fault (s : State) (b : Byte) : (s.setVF b).fault = s.fault := rfl
@[simp] theorem State.setVF_cfg (s : State) (b : Byte) : (s.setVF b).cfg = s.cfg := rfl
@[simp] theorem State.setVF_draws (s : State) (b : Byte) : (s.setVF b).draws = s.draws := rfl
@[simp] theorem State.setVF_calls (s : State) (b : Byte) : (s.setVF b).calls = s.calls := rfl

/-! ### setPc -/

@[simp] theorem State.setPc_v (s : State) (w : Word) : (s.setPc w).v = s.v := rfl
@[simp] theorem State.setPc_i (s : State) (w : Word) : (s.setPc w).i = s.i := rfl
@[simp] theorem State.setPc_pc (s : State) (w : Word) : (s.setPc w).pc = w := rfl
@[simp] theorem State.setPc_stack (s : State) (w : Word) : (s.setPc w).stack = s.stack := rfl
@[simp] theorem State.setPc_sp (s : State) (w : Word) : (s.setPc w).sp = s.sp := rfl
@[simp] theorem State.setPc_dt (s : State) (w : Word) : (s.setPc w).dt = s.dt := rfl
@[simp] theorem State.setPc_st (s : State) (w : Word) : (s.setPc w).st = s.st := rfl
@[simp] theorem State.setPc_mem (s : State) (w : Word) : (s.setPc w).mem = s.mem := rfl
@[simp] theorem State.setPc_disp (s : State) (w : Word) : (s.setPc w).disp = s.disp := rfl
@[simp] theorem State.setPc_keys (s : State) (w : Word) : (s.setPc w).keys = s.keys := rfl
@[simp] theorem State.setPc_keysSeen (s : State) (w : Word) : (s.setPc w).keysSeen = s.keysSeen := rfl
@[simp] theorem State.setPc_fault (s : State) (w : Word) : (s.setPc w).fault = s.fault := rfl
@[simp] theorem State.setPc_cfg (s : State) (w : Word) : (s.setPc w).cfg = s.cfg := rfl
@[simp] theorem State.setPc_draws (s : State) (w : Word) : (s.setPc w).draws = s.draws := rfl
@[simp] theorem State.setPc_calls (s : State) (w : Word) : (s.setPc w).calls = s.calls := rfl

/-! ### setI -/

@[simp] theorem State.setI_v (s : State) (w : Word) : (s.setI w).v = s.v := rfl
@[simp] theorem State.setI_i (s : State) (w : Word) : (s.setI w).i = w := rfl
@[simp] theorem State.setI_pc (s : State) (w : Word) : (s.setI w).pc = s.pc := rfl
@[simp] theorem State.setI_stack (s : State) (w : Word) : (s.setI w).stack = s.stack := rfl
@[simp] theorem State.setI_sp (s : State) (w : Word) : (s.setI w).sp = s.sp := rfl
@[simp] theorem State.setI_dt (s : State) (w : Word) : (s.setI w).dt = s.dt := rfl
@[simp] theorem State.setI_st (s : State) (w : Word) : (s.setI w).st = s.st := rfl
@[simp] theorem State.setI_mem (s : State) (w : Word) : (s.setI w).mem = s.mem := rfl
@[simp] theorem State.setI_disp (s : State) (w : Word) : (s.setI w).disp = s.disp := rfl
@[simp] theorem State.setI_keys (s : State) (w : Word) : (s.setI w).keys = s.keys := rfl
@[simp] theorem State.setI_keysSeen (s : State) (w : Word) : (s.setI w).keysSeen = s.keysSeen := rfl
@[simp] theorem State.setI_fault (s : State) (w : Word) : (s.setI w).fault = s.fault := rfl
@[simp] theorem State.setI_cfg (s : State) (w : Word) : (s.setI w).cfg = s.cfg := rfl
@[simp] theorem State.setI_draws (s : State) (w : Word) : (s.setI w).draws = s.draws := rfl
@[simp] theorem State.setI_calls (s : State) (w : Word) : (s.setI w).calls = s.calls := rfl

/-! ### setDt -/

@[simp] theorem State.setDt_v (s : State) (b : Byte) : (s.setDt b).v = s.v := rfl
@[simp] theorem State.setDt_i (s : State) (b : Byte) : (s.setDt b).i = s.i := rfl
@[simp] theorem State.setDt_pc (s : State) (b : Byte) : (s.setDt b).pc = s.pc := rfl
@[simp] theorem State.setDt_stack (s : State) (b : Byte) : (s.setDt b).stack = s.stack := rfl
@[simp] theorem State.setDt_sp (s : State) (b : Byte) : (s.setDt b).sp = s.sp := rfl
@[simp] theorem State.setDt_dt (s : State) (b : Byte) : (s.setDt b).dt = b := rfl
@[simp] theorem State.setDt_st (s : State) (b : Byte) : (s.setDt b).st = s.st := rfl
@[simp] theorem State.setDt_mem (s : State) (b : Byte) : (s.setDt b).mem = s.mem := rfl
@[simp] theorem State.setDt_disp (s : State) (b : Byte) : (s.setDt b).disp = s.disp := rfl
@[simp] theorem State.setDt_keys (s : State) (b : Byte) : (s.setDt b).keys = s.keys := rfl
@[simp] theorem State.setDt_keysSeen (s : State) (b : Byte) : (s.setDt b).keysSeen = s.keysSeen := rfl
@[simp] theorem State.setDt_fault (s : State) (b : Byte) : (s.setDt b).fault = s.fault := rfl
@[simp] theorem State.setDt_cfg (s : State) (b : Byte) : (s.setDt b).cfg = s.cfg := rfl
@[simp] theorem State.setDt_draws (s : State) (b : Byte) : (s.setDt b).draws = s.draws := rfl
@[simp] theorem State.setDt_calls (s : State) (b : Byte) : (s.setDt b).calls = s.calls := rfl

/-! ### setSt -/

@[simp] theorem State.setSt_v (s : State) (b : Byte) : (s.setSt b).v = s.v := rfl
@[simp] theorem State.setSt_i (s : State) (b : Byte) : (s.setSt b).i = s.i := rfl
@[simp] theorem State.setSt_pc (s : State) (b : Byte) : (s.setSt b).pc = s.pc := rfl
@[simp] theorem State.setSt_stack (s : State) (b : Byte) : (s.setSt b).stack = s.stack := rfl
@[simp] theorem State.setSt_sp (s : State) (b : Byte) : (s.setSt b).sp = s.sp := rfl
@[simp] theorem State.setSt_dt (s : State) (b : Byte) : (s.setSt b).dt = s.dt := rfl
@[simp] theorem State.setSt_st (s : State) (b : Byte) : (s.setSt b).st = b := rfl
@[simp] theorem State.setSt_mem (s : State) (b : Byte) : (s.setSt b).mem = s.mem := rfl
@[simp] theorem State.setSt_disp (s : State) (b : Byte) : (s.setSt b).disp = s.disp := rfl
@[simp] theorem State.setSt_keys (s : State) (b : Byte) : (s.setSt b).keys = s.keys := rfl
@[simp] theorem State.setSt_keysSeen (s : State) (b : Byte) : (s.setSt b).keysSeen = s.keysSeen := rfl
@[simp] theorem State.setSt_fault (s : State) (b : Byte) : (s.setSt b).fault = s.fault := rfl
@[simp] theorem State.setSt_cfg (s : State) (b : Byte) : (s.setSt b).cfg = s.cfg := rfl
@[simp] theorem State.setSt_draws (s : State) (b : Byte) : (s.setSt b).draws = s.draws := rfl
@[simp] theorem State.setSt_calls (s : State) (b : Byte) : (s.setSt b).calls = s.calls := rfl

/-! ### writeByte -/

@[simp] theorem State.writeByte_v (s : State) (a : Addr) (b : Byte) : (s.writeByte a b).v = s.v := rfl
@[simp] theorem State.writeByte_i (s : State) (a : Addr) (b : Byte) : (s.writeByte a b).i = s.i := rfl
@[simp] theorem State.writeByte_pc (s : State) (a : Addr) (b : Byte) : (s.writeByte a b).pc = s.pc := rfl
@[simp] theorem State.writeByte_stack (s : State) (a : Addr) (b : Byte) : (s.writeByte a b).stack = s.stack := rfl
@[simp] theorem State.writeByte_sp (s : State) (a : Addr) (b : Byte) : (s.writeByte a b).sp = s.sp := rfl
@[simp] theorem State.writeByte_dt (s : State) (a : Addr) (b : Byte) : (s.writeByte a b).dt = s.dt := rfl
@[simp] theorem State.writeByte_st (s : State) (a : Addr) (b : Byte) : (s.writeByte a b).st = s.st := rfl
@[simp] theorem State.writeByte_mem (s : State) (a : Addr) (b : Byte) : (s.writeByte a b).mem = Memory.write s.cfg.font s.mem a.toNat b := rfl
@[simp] theorem State.writeByte_disp (s : State) (a : Addr) (b : Byte) : (s.writeByte a b).disp = s.disp := rfl
@[simp] theorem State.writeByte_keys (s : State) (a : Addr) (b : Byte) : (s.writeByte a b).keys = s.keys := rfl
@[simp] theorem State.writeByte_keysSeen (s : State) (a : Addr) (b : Byte) : (s.writeByte a b).keysSeen = s.keysSeen := rfl
@[simp] theorem State.writeByte_fault (s : State) (a : Addr) (b : Byte) : (s.writeByte a b).fault = s.fault := rfl
@[simp] theorem State.writeByte_cfg (s : State) (a : Addr) (b : Byte) : (s.writeByte a b).cfg = s.cfg := rfl
@[simp] theorem State.writeByte_draws (s : State) (a : Addr) (b : Byte) : (s.writeByte a b).draws = s.draws := rfl
@[simp] theorem State.writeByte_calls (s : State) (a : Addr) (b : Byte) : (s.writeByte a b).calls = s.calls := rfl

/-! ### takeFault -/

@[simp] theorem State.takeFault_v (s : State) (k : FaultKind) (a : Word) : (s.takeFault k a).v = s.v := rfl
@[simp] theorem State.takeFault_i (s : State) (k : FaultKind) (a : Word) : (s.takeFault k a).i = s.i := rfl
@[simp] theorem State.takeFault_pc (s : State) (k : FaultKind) (a : Word) : (s.takeFault k a).pc = s.pc := rfl
@[simp] theorem State.takeFault_stack (s : State) (k : FaultKind) (a : Word) : (s.takeFault k a).stack = s.stack := rfl
@[simp] theorem State.takeFault_sp (s : State) (k : FaultKind) (a : Word) : (s.takeFault k a).sp = s.sp := rfl
@[simp] theorem State.takeFault_dt (s : State) (k : FaultKind) (a : Word) : (s.takeFault k a).dt = s.dt := rfl
@[simp] theorem State.takeFault_st (s : State) (k : FaultKind) (a : Word) : (s.takeFault k a).st = s.st := rfl
@[simp] theorem State.takeFault_mem (s : State) (k : FaultKind) (a : Word) : (s.takeFault k a).mem = s.mem := rfl
@[simp] theorem State.takeFault_disp (s : State) (k : FaultKind) (a : Word) : (s.takeFault k a).disp = s.disp := rfl
@[simp] theorem State.takeFault_keys (s : State) (k : FaultKind) (a : Word) : (s.takeFault k a).keys = s.keys := rfl
@[simp] theorem State.takeFault_keysSeen (s : State) (k : FaultKind) (a : Word) : (s.takeFault k a).keysSeen = s.keysSeen := rfl
@[simp] theorem State.takeFault_fault (s : State) (k : FaultKind) (a : Word) : (s.takeFault k a).fault = some ⟨k, a⟩ := rfl
@[simp] theorem State.takeFault_cfg (s : State) (k : FaultKind) (a : Word) : (s.takeFault k a).cfg = s.cfg := rfl
@[simp] theorem State.takeFault_draws (s : State) (k : FaultKind) (a : Word) : (s.takeFault k a).draws = s.draws := rfl
@[simp] theorem State.takeFault_calls (s : State) (k : FaultKind) (a : Word) : (s.takeFault k a).calls = s.calls := rfl

/-! ### advance -/

@[simp] theorem State.advance_v (s : State) : (s.advance).v = s.v := rfl
@[simp] theorem State.advance_i (s : State) : (s.advance).i = s.i := rfl
@[simp] theorem State.advance_pc (s : State) : (s.advance).pc = s.pc + 2 := rfl
@[simp] theorem State.advance_stack (s : State) : (s.advance).stack = s.stack := rfl
@[simp] theorem State.advance_sp (s : State) : (s.advance).sp = s.sp := rfl
@[simp] theorem State.advance_dt (s : State) : (s.advance).dt = s.dt := rfl
@[simp] theorem State.advance_st (s : State) : (s.advance).st = s.st := rfl
@[simp] theorem State.advance_mem (s : State) : (s.advance).mem = s.mem := rfl
@[simp] theorem State.advance_disp (s : State) : (s.advance).disp = s.disp := rfl
@[simp] theorem State.advance_keys (s : State) : (s.advance).keys = s.keys := rfl
@[simp] theorem State.advance_keysSeen (s : State) : (s.advance).keysSeen = s.keysSeen := rfl
@[simp] theorem State.advance_fault (s : State) : (s.advance).fault = s.fault := rfl
@[simp] theorem State.advance_cfg (s : State) : (s.advance).cfg = s.cfg := rfl
@[simp] theorem State.advance_draws (s : State) : (s.advance).draws = s.draws := rfl
@[simp] theorem State.advance_calls (s : State) : (s.advance).calls = s.calls := rfl

/-! ### skip -/

@[simp] theorem State.skip_v (s : State) : (s.skip).v = s.v := rfl
@[simp] theorem State.skip_i (s : State) : (s.skip).i = s.i := rfl
@[simp] theorem State.skip_pc (s : State) : (s.skip).pc = s.pc + 2 := rfl
@[simp] theorem State.skip_stack (s : State) : (s.skip).stack = s.stack := rfl
@[simp] theorem State.skip_sp (s : State) : (s.skip).sp = s.sp := rfl
@[simp] theorem State.skip_dt (s : State) : (s.skip).dt = s.dt := rfl
@[simp] theorem State.skip_st (s : State) : (s.skip).st = s.st := rfl
@[simp] theorem State.skip_mem (s : State) : (s.skip).mem = s.mem := rfl
@[simp] theorem State.skip_disp (s : State) : (s.skip).disp = s.disp := rfl
@[simp] theorem State.skip_keys (s : State) : (s.skip).keys = s.keys := rfl
@[simp] theorem State.skip_keysSeen (s : State) : (s.skip).keysSeen = s.keysSeen := rfl
@[simp] theorem State.skip_fault (s : State) : (s.skip).fault = s.fault := rfl
@[simp] theorem State.skip_cfg (s : State) : (s.skip).cfg = s.cfg := rfl
@[simp] theorem State.skip_draws (s : State) : (s.skip).draws = s.draws := rfl
@[simp] theorem State.skip_calls (s : State) : (s.skip).calls = s.calls := rfl

/-! ### latchKeys -/

@[simp] theorem State.latchKeys_v (s : State) : (s.latchKeys).v = s.v := rfl
@[simp] theorem State.latchKeys_i (s : State) : (s.latchKeys).i = s.i := rfl
@[simp] theorem State.latchKeys_pc (s : State) : (s.latchKeys).pc = s.pc := rfl
@[simp] theorem State.latchKeys_stack (s : State) : (s.latchKeys).stack = s.stack := rfl
@[simp] theorem State.latchKeys_sp (s : State) : (s.latchKeys).sp = s.sp := rfl
@[simp] theorem State.latchKeys_dt (s : State) : (s.latchKeys).dt = s.dt := rfl
@[simp] theorem State.latchKeys_st (s : State) : (s.latchKeys).st = s.st := rfl
@[simp] theorem State.latchKeys_mem (s : State) : (s.latchKeys).mem = s.mem := rfl
@[simp] theorem State.latchKeys_disp (s : State) : (s.latchKeys).disp = s.disp := rfl
@[simp] theorem State.latchKeys_keys (s : State) : (s.latchKeys).keys = s.keys := rfl
@[simp] theorem State.latchKeys_keysSeen (s : State) : (s.latchKeys).keysSeen = s.keys := rfl
@[simp] theorem State.latchKeys_fault (s : State) : (s.latchKeys).fault = s.fault := rfl
@[simp] theorem State.latchKeys_cfg (s : State) : (s.latchKeys).cfg = s.cfg := rfl
@[simp] theorem State.latchKeys_draws (s : State) : (s.latchKeys).draws = s.draws := rfl
@[simp] theorem State.latchKeys_calls (s : State) : (s.latchKeys).calls = s.calls := rfl

/-! ### dropCall -/

@[simp] theorem State.dropCall_v (s : State) : (s.dropCall).v = s.v := rfl
@[simp] theorem State.dropCall_i (s : State) : (s.dropCall).i = s.i := rfl
@[simp] theorem State.dropCall_pc (s : State) : (s.dropCall).pc = s.pc := rfl
@[simp] theorem State.dropCall_stack (s : State) : (s.dropCall).stack = s.stack := rfl
@[simp] theorem State.dropCall_sp (s : State) : (s.dropCall).sp = s.sp := rfl
@[simp] theorem State.dropCall_dt (s : State) : (s.dropCall).dt = s.dt := rfl
@[simp] theorem State.dropCall_st (s : State) : (s.dropCall).st = s.st := rfl
@[simp] theorem State.dropCall_mem (s : State) : (s.dropCall).mem = s.mem := rfl
@[simp] theorem State.dropCall_disp (s : State) : (s.dropCall).disp = s.disp := rfl
@[simp] theorem State.dropCall_keys (s : State) : (s.dropCall).keys = s.keys := rfl
@[simp] theorem State.dropCall_keysSeen (s : State) : (s.dropCall).keysSeen = s.keysSeen := rfl
@[simp] theorem State.dropCall_fault (s : State) : (s.dropCall).fault = s.fault := rfl
@[simp] theorem State.dropCall_cfg (s : State) : (s.dropCall).cfg = s.cfg := rfl
@[simp] theorem State.dropCall_draws (s : State) : (s.dropCall).draws = s.draws := rfl
@[simp] theorem State.dropCall_calls (s : State) : (s.dropCall).calls = s.calls.tail := rfl

/-! ### decrementTimers -/

@[simp] theorem State.decrementTimers_v (s : State) : (s.decrementTimers).v = s.v := rfl
@[simp] theorem State.decrementTimers_i (s : State) : (s.decrementTimers).i = s.i := rfl
@[simp] theorem State.decrementTimers_pc (s : State) : (s.decrementTimers).pc = s.pc := rfl
@[simp] theorem State.decrementTimers_stack (s : State) : (s.decrementTimers).stack = s.stack := rfl
@[simp] theorem State.decrementTimers_sp (s : State) : (s.decrementTimers).sp = s.sp := rfl
@[simp] theorem State.decrementTimers_dt (s : State) : (s.decrementTimers).dt = decremented s.dt := rfl
@[simp] theorem State.decrementTimers_st (s : State) : (s.decrementTimers).st = decremented s.st := rfl
@[simp] theorem State.decrementTimers_mem (s : State) : (s.decrementTimers).mem = s.mem := rfl
@[simp] theorem State.decrementTimers_disp (s : State) : (s.decrementTimers).disp = s.disp := rfl
@[simp] theorem State.decrementTimers_keys (s : State) : (s.decrementTimers).keys = s.keys := rfl
@[simp] theorem State.decrementTimers_keysSeen (s : State) : (s.decrementTimers).keysSeen = s.keysSeen := rfl
@[simp] theorem State.decrementTimers_fault (s : State) : (s.decrementTimers).fault = s.fault := rfl
@[simp] theorem State.decrementTimers_cfg (s : State) : (s.decrementTimers).cfg = s.cfg := rfl
@[simp] theorem State.decrementTimers_draws (s : State) : (s.decrementTimers).draws = s.draws := rfl
@[simp] theorem State.decrementTimers_calls (s : State) : (s.decrementTimers).calls = s.calls := rfl

/-! ### setKeys -/

@[simp] theorem State.setKeys_v (s : State) (k : Keys) : (s.setKeys k).v = s.v := rfl
@[simp] theorem State.setKeys_i (s : State) (k : Keys) : (s.setKeys k).i = s.i := rfl
@[simp] theorem State.setKeys_pc (s : State) (k : Keys) : (s.setKeys k).pc = s.pc := rfl
@[simp] theorem State.setKeys_stack (s : State) (k : Keys) : (s.setKeys k).stack = s.stack := rfl
@[simp] theorem State.setKeys_sp (s : State) (k : Keys) : (s.setKeys k).sp = s.sp := rfl
@[simp] theorem State.setKeys_dt (s : State) (k : Keys) : (s.setKeys k).dt = s.dt := rfl
@[simp] theorem State.setKeys_st (s : State) (k : Keys) : (s.setKeys k).st = s.st := rfl
@[simp] theorem State.setKeys_mem (s : State) (k : Keys) : (s.setKeys k).mem = s.mem := rfl
@[simp] theorem State.setKeys_disp (s : State) (k : Keys) : (s.setKeys k).disp = s.disp := rfl
@[simp] theorem State.setKeys_keys (s : State) (k : Keys) : (s.setKeys k).keys = k := rfl
@[simp] theorem State.setKeys_keysSeen (s : State) (k : Keys) : (s.setKeys k).keysSeen = s.keysSeen := rfl
@[simp] theorem State.setKeys_fault (s : State) (k : Keys) : (s.setKeys k).fault = s.fault := rfl
@[simp] theorem State.setKeys_cfg (s : State) (k : Keys) : (s.setKeys k).cfg = s.cfg := rfl
@[simp] theorem State.setKeys_draws (s : State) (k : Keys) : (s.setKeys k).draws = s.draws := rfl
@[simp] theorem State.setKeys_calls (s : State) (k : Keys) : (s.setKeys k).calls = s.calls := rfl

/-! ### resetEngine: every field of the construction state, the configuration, the draws and the calls kept -/

@[simp] theorem State.resetEngine_v (s : State) : s.resetEngine.v = (State.construct s.cfg).v := rfl
@[simp] theorem State.resetEngine_i (s : State) : s.resetEngine.i = (State.construct s.cfg).i := rfl
@[simp] theorem State.resetEngine_pc (s : State) : s.resetEngine.pc = (State.construct s.cfg).pc := rfl
@[simp] theorem State.resetEngine_stack (s : State) : s.resetEngine.stack = (State.construct s.cfg).stack := rfl
@[simp] theorem State.resetEngine_sp (s : State) : s.resetEngine.sp = (State.construct s.cfg).sp := rfl
@[simp] theorem State.resetEngine_dt (s : State) : s.resetEngine.dt = (State.construct s.cfg).dt := rfl
@[simp] theorem State.resetEngine_st (s : State) : s.resetEngine.st = (State.construct s.cfg).st := rfl
@[simp] theorem State.resetEngine_mem (s : State) : s.resetEngine.mem = (State.construct s.cfg).mem := rfl
@[simp] theorem State.resetEngine_disp (s : State) : s.resetEngine.disp = (State.construct s.cfg).disp := rfl
@[simp] theorem State.resetEngine_keys (s : State) : s.resetEngine.keys = (State.construct s.cfg).keys := rfl
@[simp] theorem State.resetEngine_keysSeen (s : State) : s.resetEngine.keysSeen = (State.construct s.cfg).keysSeen := rfl
@[simp] theorem State.resetEngine_fault (s : State) : s.resetEngine.fault = (State.construct s.cfg).fault := rfl
@[simp] theorem State.resetEngine_cfg (s : State) : s.resetEngine.cfg = s.cfg := rfl
@[simp] theorem State.resetEngine_draws (s : State) : s.resetEngine.draws = s.draws := rfl
@[simp] theorem State.resetEngine_calls (s : State) : s.resetEngine.calls = s.calls := rfl

/-! ### rand -/

@[simp] theorem State.rand_byte (s : State) : s.rand.1 = Config.randomByte s.draws := rfl
@[simp] theorem State.rand_v (s : State) : s.rand.2.v = s.v := rfl
@[simp] theorem State.rand_i (s : State) : s.rand.2.i = s.i := rfl
@[simp] theorem State.rand_pc (s : State) : s.rand.2.pc = s.pc := rfl
@[simp] theorem State.rand_stack (s : State) : s.rand.2.stack = s.stack := rfl
@[simp] theorem State.rand_sp (s : State) : s.rand.2.sp = s.sp := rfl
@[simp] theorem State.rand_dt (s : State) : s.rand.2.dt = s.dt := rfl
@[simp] theorem State.rand_st (s : State) : s.rand.2.st = s.st := rfl
@[simp] theorem State.rand_mem (s : State) : s.rand.2.mem = s.mem := rfl
@[simp] theorem State.rand_disp (s : State) : s.rand.2.disp = s.disp := rfl
@[simp] theorem State.rand_keys (s : State) : s.rand.2.keys = s.keys := rfl
@[simp] theorem State.rand_keysSeen (s : State) : s.rand.2.keysSeen = s.keysSeen := rfl
@[simp] theorem State.rand_fault (s : State) : s.rand.2.fault = s.fault := rfl
@[simp] theorem State.rand_cfg (s : State) : s.rand.2.cfg = s.cfg := rfl
@[simp] theorem State.rand_draws (s : State) : s.rand.2.draws = s.draws + 1 := rfl
@[simp] theorem State.rand_calls (s : State) : s.rand.2.calls = s.calls := rfl

/-! ### The register file -/

/-- Reading a register after a write: the byte written where it is the same register, else what it held. -/
theorem State.getV_setV (s : State) (x r : Reg) (b : Byte) :
    (s.setV x b).getV r = if r = x then b else s.getV r := by
  simp only [State.getV, State.setV_v, Vector.getElem_set, Fin.ext_iff]
  split <;> split <;> simp_all

@[simp] theorem State.getV_setV_same (s : State) (x : Reg) (b : Byte) : (s.setV x b).getV x = b := by
  simp [State.getV_setV]

/-- The register file is read through field v alone. -/
theorem State.getV_congr {s t : State} (h : t.v = s.v) (r : Reg) : t.getV r = s.getV r := by
  simp [State.getV, h]

/-- VF is V[15]. -/
theorem State.getV_setVF (s : State) (r : Reg) (b : Byte) :
    (s.setVF b).getV r = if r = 15 then b else s.getV r := State.getV_setV s 15 r b

/-- R132: the flag is in VF even where VF is the destination. -/
theorem State.getV_writeResultFlag (s : State) (x r : Reg) (b : Byte) (c : Bool) :
    (s.writeResultFlag x b c).getV r = if r = 15 then flagByte c else if r = x then b else s.getV r := by
  simp [State.writeResultFlag, State.getV_setVF, State.getV_setV]

/-! ### The display -/

/-- A pixel after a flip: the negated pixel at the flipped cell, every other as before. -/
theorem Display.pixel_flip (d : Display) (x a : Fin 64) (y b : Fin 32) :
    (d.flip x y).pixel a b = if a = x ∧ b = y then !d.pixel a b else d.pixel a b := by
  simp only [Display.flip, Display.pixel, Vector.getElem_set, Fin.ext_iff]
  by_cases hy : y.val = b.val
  · by_cases hx : x.val = a.val
    · have : y = b := Fin.ext hy
      have : x = a := Fin.ext hx
      subst_vars; simp
    · have : y = b := Fin.ext hy
      subst this; simp [hx, Ne.symm hx]
  · simp [hy, Ne.symm hy]

/-- CLS's display has no pixel on. -/
@[simp] theorem Display.pixel_blank (x : Fin 64) (y : Fin 32) : Display.blank.pixel x y = false := by
  simp [Display.blank, Display.pixel]

end Sys2Proof.Machine
end

