-- ==== Sys2Proof/Laws/Memory.lean ====
section
/-! SUPPORT. Memory: read after write, and the canonical form, which every memory operation keeps. -/

namespace Sys2Proof.Machine

/-- In a list whose addresses all lie above a, address a is unlisted. -/
theorem Memory.read_above (f : Font) (m : Memory) (a : Nat) (h : ∀ c ∈ m, a < c.1) :
    Memory.read f m a = Memory.initial f a := by
  induction m with
  | nil => rfl
  | cons c rest ih =>
    have hc := h c (by simp)
    have : a ≠ c.1 := by omega
    simp only [Memory.read, this, if_false]
    exact ih fun d hd => h d (by simp [hd])

/-- A byte read after a write: the byte written at the same address, else what was there. -/
theorem Memory.read_write (f : Font) (m : Memory) (hm : Memory.wf f m) (a b : Nat) (v : Byte) :
    Memory.read f (Memory.write f m a v) b = if b = a then v else Memory.read f m b := by
  induction m with
  | nil =>
    by_cases hv : v = Memory.initial f a <;> by_cases hb : b = a <;> simp [Memory.write, Memory.read, hv, hb]
  | cons c rest ih =>
    obtain ⟨hp, hc⟩ := hm
    have hp' := List.pairwise_cons.mp hp
    have hrest : Memory.wf f rest := ⟨hp'.2, fun d hd => hc d (by simp [hd])⟩
    obtain ⟨k, w⟩ := c
    simp only [Memory.write]
    by_cases h1 : a < k
    · have habove : Memory.read f ((k, w) :: rest) a = Memory.initial f a :=
        Memory.read_above f _ a fun d hd => by
          rcases List.mem_cons.mp hd with rfl | hd
          · exact h1
          · exact Nat.lt_trans h1 (hp'.1 d hd)
      by_cases hv : v = Memory.initial f a
      · by_cases hb : b = a
        · subst hb; simp [h1, hv, habove]
        · simp [h1, hv, hb]
      · by_cases hb : b = a <;> simp [h1, hv, hb, Memory.read]
    · by_cases h2 : a = k
      · subst h2
        have habove : Memory.read f rest a = Memory.initial f a := Memory.read_above f _ a fun d hd => hp'.1 d hd
        by_cases hv : v = Memory.initial f a
        · by_cases hb : b = a
          · subst hb; simp [hv, habove]
          · simp [hv, hb, Memory.read]
        · by_cases hb : b = a <;> simp [hv, hb, Memory.read]
      · simp only [h1, h2, if_false, Memory.read, ih hrest]
        by_cases hb : b = k
        · have : b ≠ a := by omega
          simp [hb, Ne.symm h2]
        · simp [hb]

/-- Every address a write leaves listed was listed, or is the one written. -/
theorem Memory.write_mem (f : Font) (m : Memory) (a : Nat) (v : Byte) (c : Host.Cell)
    (h : c ∈ Memory.write f m a v) : (c = (a, v) ∧ v ≠ Memory.initial f a) ∨ c ∈ m := by
  induction m with
  | nil =>
    by_cases hv : v = Memory.initial f a
    · simp [Memory.write, hv] at h
    · simp only [Memory.write, hv, if_false, List.mem_singleton] at h
      exact .inl ⟨h, hv⟩
  | cons d rest ih =>
    obtain ⟨k, w⟩ := d
    simp only [Memory.write] at h
    split at h
    · split at h
      · exact .inr h
      · rcases List.mem_cons.mp h with h | h
        · exact .inl ⟨h, ‹_›⟩
        · exact .inr h
    · split at h
      · split at h
        · exact .inr (by simp [h])
        · rcases List.mem_cons.mp h with h | h
          · exact .inl ⟨h, ‹_›⟩
          · exact .inr (by simp [h])
      · rcases List.mem_cons.mp h with h | h
        · exact .inr (by simp [h])
        · rcases ih h with h | h
          · exact .inl h
          · exact .inr (by simp [h])

/-- A write inside the 4096 bytes keeps the canonical form. -/
theorem Memory.wf_write (f : Font) (m : Memory) (a : Nat) (v : Byte) (ha : a < 4096) (hm : Memory.wf f m) :
    Memory.wf f (Memory.write f m a v) := by
  refine ⟨?_, ?_⟩
  · induction m with
    | nil => by_cases hv : v = Memory.initial f a <;> simp [Memory.write, hv]
    | cons d rest ih =>
      obtain ⟨hp, hc⟩ := hm
      have hp' := List.pairwise_cons.mp hp
      have hrest : Memory.wf f rest := ⟨hp'.2, fun d hd => hc d (by simp [hd])⟩
      obtain ⟨k, w⟩ := d
      simp only [Memory.write]
      split
      · rename_i h1
        split
        · exact hp
        · refine List.pairwise_cons.mpr ⟨fun d hd => ?_, hp⟩
          rcases List.mem_cons.mp hd with rfl | hd
          · exact h1
          · exact Nat.lt_trans h1 (hp'.1 d hd)
      · split
        · rename_i h2
          split
          · exact hp'.2
          · exact List.pairwise_cons.mpr ⟨fun d hd => by rw [h2]; exact hp'.1 d hd, hp'.2⟩
        · refine List.pairwise_cons.mpr ⟨fun d hd => ?_, ih hrest⟩
          rcases Memory.write_mem f rest a v d hd with ⟨rfl, _⟩ | hd
          · show k < a
            omega
          · exact hp'.1 d hd
  · intro c hcw
    rcases Memory.write_mem f m a v c hcw with ⟨rfl, hv⟩ | h
    · exact ⟨ha, hv⟩
    · exact hm.2 c h

/-- Consecutive bytes written inside the 4096 bytes keep the canonical form. -/
theorem Memory.wf_writeBytes (f : Font) (bytes : List Byte) (m : Memory) (a : Nat) (ha : a + bytes.length ≤ 4096)
    (hm : Memory.wf f m) : Memory.wf f (Memory.writeBytes f m a bytes) := by
  induction bytes generalizing m a with
  | nil => exact hm
  | cons b rest ih =>
    simp only [List.length_cons] at ha
    exact ih _ _ (by omega) (Memory.wf_write f m a b (by omega) hm)

/-- A byte read after consecutive writes: the image's byte inside it, else what was there. -/
theorem Memory.read_writeBytes (f : Font) (bytes : List Byte) (m : Memory) (a b : Nat)
    (ha : a + bytes.length ≤ 4096) (hm : Memory.wf f m) :
    Memory.read f (Memory.writeBytes f m a bytes) b =
      if h : a ≤ b ∧ b < a + bytes.length then bytes[b - a]'(by omega) else Memory.read f m b := by
  induction bytes generalizing m a with
  | nil => simp [Memory.writeBytes, show ¬(a ≤ b ∧ b < a) by omega]
  | cons v rest ih =>
    simp only [List.length_cons] at ha
    rw [Memory.writeBytes, ih _ _ (by omega) (Memory.wf_write f m a v (by omega) hm), Memory.read_write f m hm]
    by_cases hb : b = a
    · subst hb; simp [show ¬(b + 1 ≤ b) by omega]
    · by_cases hin : a + 1 ≤ b ∧ b < a + 1 + rest.length
      · have hsub : b - a = (b - (a + 1)) + 1 := by omega
        simp [hin, show a ≤ b ∧ b < a + (rest.length + 1) by omega, hsub]
      · rw [dif_neg hin, if_neg hb, dif_neg (by simp only [List.length_cons]; omega)]

/-- The canonical form is kept by a byte stored through the engine's address type. -/
theorem State.wf_writeByte (s : State) (a : Addr) (b : Byte) (hm : Memory.wf s.cfg.font s.mem) :
    Memory.wf (s.writeByte a b).cfg.font (s.writeByte a b).mem :=
  Memory.wf_write _ _ _ _ a.isLt hm

/-- A byte read after a stored byte, on canonical memory. -/
theorem State.readByte_writeByte (s : State) (a c : Addr) (b : Byte) (hm : Memory.wf s.cfg.font s.mem) :
    (s.writeByte a b).readByte c = if c = a then b else s.readByte c := by
  simp only [State.readByte, State.writeByte_cfg, State.writeByte_mem, Memory.read_write _ _ hm, BitVec.toNat_inj]

/-- Memory is read through the fields mem and cfg alone. -/
theorem State.readByte_congr {s t : State} (hm : t.mem = s.mem) (hc : t.cfg = s.cfg) (a : Addr) :
    t.readByte a = s.readByte a := by
  simp [State.readByte, hm, hc]

end Sys2Proof.Machine
end

