-- ==== Sys2Proof/Laws/Ops.lean ====
section
/-! SUPPORT. For each shared operation what it can do, said once: the stack primitives, the skip, the effective address, the
multi-register store and load, the key-press choice, the sprite's cells and the drawing loop. -/

namespace Sys2Proof.Machine

/-! ### Stack primitives -/

/-- If push answers, SP was below 16 and only STACK[SP] and SP changed (R110). -/
theorem State.push_some {s t : State} {w : Word} (h : s.push w = some t) :
    ∃ hs : s.sp.val < 16,
      t = { s with stack := s.stack.set s.sp.val w, sp := ⟨s.sp.val + 1, by omega⟩ } := by
  unfold State.push at h
  split at h
  · exact ⟨‹_›, (Option.some.inj h).symm⟩
  · cases h

/-- push answers nothing exactly where the stack is full (R110). -/
theorem State.push_none {s : State} {w : Word} : s.push w = none ↔ s.sp.val = 16 := by
  unfold State.push
  split
  · simp only [reduceCtorEq, false_iff]; omega
  · simp only [true_iff]; omega

/-- If pop answers, SP was above 0, the word is the top entry, and only SP changed (R111). -/
theorem State.pop_some {s t : State} {w : Word} (h : s.pop = some (w, t)) :
    ∃ hs : 0 < s.sp.val,
      w = s.stack[s.sp.val - 1]'(by omega) ∧ t = { s with sp := ⟨s.sp.val - 1, by omega⟩ } := by
  unfold State.pop at h
  split at h
  · simp only [Option.some.injEq, Prod.mk.injEq] at h
    exact ⟨‹_›, h.1.symm, h.2.symm⟩
  · cases h

/-- pop answers nothing exactly where the stack is empty (R111). -/
theorem State.pop_none {s : State} : s.pop = none ↔ s.sp.val = 0 := by
  unfold State.pop
  split
  · simp only [reduceCtorEq, false_iff]; omega
  · simp only [true_iff]; omega

/-! ### Skips -/

/-- A conditional skip touches PC alone (R109). -/
theorem State.skipIf_eq (s : State) (c : Bool) : s.skipIf c = s.setPc (if c then s.pc + 2 else s.pc) := by
  cases c <;> rfl

/-! ### Effective addresses -/

/-- EA(k) as a number: (I + k) mod 4096 (R54). -/
theorem State.ea_toNat (s : State) (k : Nat) : (s.ea k).toNat = (s.i.toNat + k) % 4096 := by
  simp [State.ea, BitVec.toNat_ofNat]

/-- Offsets less than 4096 apart give different addresses (R57). -/
theorem State.ea_inj (s : State) (j k : Nat) (hj : j < 4096) (hk : k < 4096) (h : s.ea j = s.ea k) : j = k := by
  have := congrArg BitVec.toNat h
  simp only [State.ea_toNat] at this
  omega

/-! ### V0 to Vx -/

@[simp] theorem mem_regsUpTo (x k : Reg) : k ∈ regsUpTo x ↔ k ≤ x := by simp [regsUpTo]

theorem nodup_regsUpTo (x : Reg) : (regsUpTo x).Nodup := (List.nodup_finRange 16).filter _

/-- Storing registers changes memory alone. -/
theorem State.storeRegs_eq (s : State) (ks : List Reg) : ∃ m, s.storeRegs ks = { s with mem := m } := by
  unfold State.storeRegs
  induction ks generalizing s with
  | nil => exact ⟨s.mem, rfl⟩
  | cons k ks ih =>
    obtain ⟨m, hm⟩ := ih (s.writeByte (s.ea k.val) (s.getV k))
    exact ⟨m, hm⟩

/-- Storing registers keeps memory's canonical form. -/
theorem State.wf_storeRegs (s : State) (ks : List Reg) (hm : Memory.wf s.cfg.font s.mem) :
    Memory.wf s.cfg.font (s.storeRegs ks).mem := by
  unfold State.storeRegs
  induction ks generalizing s with
  | nil => exact hm
  | cons k ks ih => exact ih _ (State.wf_writeByte s _ _ hm)

/-- Bytes outside the stored addresses keep their value. -/
theorem State.readByte_storeRegs_other (s : State) (ks : List Reg) (hm : Memory.wf s.cfg.font s.mem) (a : Addr)
    (ha : ∀ k ∈ ks, a ≠ s.ea k.val) : (s.storeRegs ks).readByte a = s.readByte a := by
  unfold State.storeRegs
  induction ks generalizing s with
  | nil => rfl
  | cons k ks ih =>
    rw [List.foldl_cons, ih (s.writeByte (s.ea k.val) (s.getV k)) (State.wf_writeByte s _ _ hm)
      (fun j hj => ha j (by simp [hj])), State.readByte_writeByte s _ _ _ hm, if_neg (ha k (by simp))]

/-- The byte at EA(k) of a stored register is the register. -/
theorem State.readByte_storeRegs (s : State) (ks : List Reg) (hm : Memory.wf s.cfg.font s.mem) (hd : ks.Nodup)
    (k : Reg) (hk : k ∈ ks) : (s.storeRegs ks).readByte (s.ea k.val) = s.getV k := by
  induction ks generalizing s with
  | nil => cases hk
  | cons j ks ih =>
    have hj := List.nodup_cons.mp hd
    have hw := State.wf_writeByte s (s.ea j.val) (s.getV j) hm
    have hstep : s.storeRegs (j :: ks) = (s.writeByte (s.ea j.val) (s.getV j)).storeRegs ks := rfl
    rw [hstep]
    rcases List.mem_cons.mp hk with rfl | hk'
    · have := State.readByte_storeRegs_other (s.writeByte (s.ea k.val) (s.getV k)) ks hw (s.ea k.val)
        (fun i hi he => hj.1 (by
          have := State.ea_inj s k.val i.val (by omega) (by omega) he
          rwa [Fin.ext this]))
      rw [this, State.readByte_writeByte s _ _ _ hm, if_pos rfl]
    · exact ih (s.writeByte (s.ea j.val) (s.getV j)) hw hj.2 hk'

/-- Loading registers changes the register file alone. -/
theorem State.loadRegs_eq (s : State) (ks : List Reg) : ∃ v, s.loadRegs ks = { s with v := v } := by
  unfold State.loadRegs
  induction ks generalizing s with
  | nil => exact ⟨s.v, rfl⟩
  | cons k ks ih =>
    obtain ⟨v, hv⟩ := ih (s.setV k (s.readByte (s.ea k.val)))
    exact ⟨v, hv⟩

/-- A loaded register holds the byte at its EA(k); every other register is as before. -/
theorem State.getV_loadRegs (s : State) (ks : List Reg) (r : Reg) :
    (s.loadRegs ks).getV r = if r ∈ ks then s.readByte (s.ea r.val) else s.getV r := by
  unfold State.loadRegs
  induction ks generalizing s with
  | nil => simp
  | cons k ks ih =>
    rw [List.foldl_cons, ih]
    have hr : (s.setV k (s.readByte (s.ea k.val))).readByte
        ((s.setV k (s.readByte (s.ea k.val))).ea r.val) = s.readByte (s.ea r.val) := rfl
    rw [hr, State.getV_setV]
    by_cases h : r = k
    · subst h; simp
    · simp [h]

/-! ### Key presses -/

/-- The key FX0A stores has a press transition, and no lower key has one (R193, R194). -/
theorem State.firstPress_some {s : State} {k : Fin 16} (h : s.firstPress = some k) :
    s.pressed k = true ∧ ∀ j, j < k → s.pressed j = false := by
  unfold State.firstPress at h
  refine ⟨List.find?_some h, fun j hj => ?_⟩
  obtain ⟨_, i, hi, hk, hlow⟩ := List.find?_eq_some_iff_getElem.mp h
  have hjl := hlow j.val (by
    have : k.val = i := by rw [← hk]; simp
    omega)
  simpa using hjl

/-- FX0A waits exactly where no key has a press transition (R193). -/
theorem State.firstPress_none {s : State} : s.firstPress = none ↔ ∀ k, s.pressed k = false := by
  simp [State.firstPress]

/-! ### Sprites -/

/-- The cells a sprite draws: bit j of row r is set and lies inside the display (R171 to R173). -/
theorem State.mem_spriteCells (s : State) (x0 y0 n : Nat) (c : Cell) :
    c ∈ s.spriteCells x0 y0 n ↔
      ∃ r, r < n ∧ ∃ j, j < 8 ∧ c.1.val = x0 + j ∧ c.2.val = y0 + r ∧ spriteBit (s.readByte (s.ea r)) j = true := by
  simp only [State.spriteCells, List.mem_flatMap, List.mem_range, List.mem_filterMap]
  refine exists_congr fun r => and_congr_right fun _ => exists_congr fun j => and_congr_right fun _ => ?_
  obtain ⟨cx, cy⟩ := c
  unfold State.spriteCell
  constructor
  · intro h
    split at h
    · split at h
      · simp only [Option.some.injEq, Prod.mk.injEq] at h
        obtain ⟨rfl, rfl⟩ := h
        exact ⟨rfl, rfl, ‹_›⟩
      · cases h
    · cases h
  · rintro ⟨hx, hy, hb⟩
    have hb2 : x0 + j ≤ 63 ∧ y0 + r ≤ 31 := by have := cx.isLt; have := cy.isLt; simp only at hx hy; omega
    rw [dif_pos hb2, if_pos hb]
    simp only [Option.some.injEq, Prod.mk.injEq]
    exact ⟨Fin.ext hx.symm, Fin.ext hy.symm⟩

/-- What a drawn cell says of its place in the sprite. -/
theorem State.spriteCell_some {s : State} {x0 y0 r j : Nat} {c : Cell} (h : s.spriteCell x0 y0 r j = some c) :
    c.1.val = x0 + j ∧ c.2.val = y0 + r := by
  unfold State.spriteCell at h
  split at h
  · split at h
    · simp only [Option.some.injEq] at h
      subst h
      exact ⟨rfl, rfl⟩
    · cases h
  · cases h

/-- No cell is drawn twice by one sprite. -/
theorem State.nodup_spriteCells (s : State) (x0 y0 n : Nat) : (s.spriteCells x0 y0 n).Nodup := by
  unfold State.spriteCells
  rw [List.nodup_flatMap]
  refine ⟨fun r _ => ?_, ?_⟩
  · refine List.Nodup.filterMap (fun j k c hj hk => ?_) List.nodup_range
    have h1 := (State.spriteCell_some hj).1
    have h2 := (State.spriteCell_some hk).1
    omega
  · refine List.Pairwise.imp_of_mem (fun {a b} _ _ hab => ?_) (List.nodup_range (n := n))
    intro c hc hc'
    obtain ⟨j, _, hj⟩ := List.mem_filterMap.mp hc
    obtain ⟨k, _, hk⟩ := List.mem_filterMap.mp hc'
    have h1 := (State.spriteCell_some hj).2
    have h2 := (State.spriteCell_some hk).2
    omega

/-- The drawing loop from any collision bit: each cell of the list flips once, and the bit becomes 1 where one was on. -/
theorem foldl_drawCell (cells : List Cell) (hd : cells.Nodup) (d : Display) (c : Bool) :
    (∀ x y, (cells.foldl drawCell (d, c)).1.pixel x y =
      if (x, y) ∈ cells then !d.pixel x y else d.pixel x y) ∧
    (cells.foldl drawCell (d, c)).2 = (c || cells.any fun p => d.pixel p.1 p.2) := by
  induction cells generalizing d c with
  | nil => simp
  | cons p ps ih =>
    obtain ⟨hp, hps⟩ := List.nodup_cons.mp hd
    obtain ⟨h1, h2⟩ := ih hps (d.flip p.1 p.2) (c || d.pixel p.1 p.2)
    have hstep : (p :: ps).foldl drawCell (d, c) = ps.foldl drawCell (d.flip p.1 p.2, c || d.pixel p.1 p.2) := rfl
    rw [hstep]
    refine ⟨fun x y => ?_, ?_⟩
    · rw [h1, Display.pixel_flip]
      by_cases hxy : (x, y) = p
      · subst hxy; simp [hp]
      · have : ¬(x = p.1 ∧ y = p.2) := fun h => hxy (Prod.ext h.1 h.2)
        simp [this, hxy]
    · have hsame : ps.any (fun q => (d.flip p.1 p.2).pixel q.1 q.2) = ps.any fun q => d.pixel q.1 q.2 := by
        rw [Bool.eq_iff_iff, List.any_eq_true, List.any_eq_true]
        refine exists_congr fun q => and_congr_right fun hq => ?_
        have : ¬(q.1 = p.1 ∧ q.2 = p.2) := fun h => hp (Prod.ext h.1 h.2 ▸ hq)
        rw [Display.pixel_flip, if_neg this]
      rw [h2, hsame, List.any_cons, Bool.or_assoc]

/-- The drawing loop's display: each drawn cell flipped (R171). -/
theorem pixel_drawCells (d : Display) (cells : List Cell) (hd : cells.Nodup) (x : Fin 64) (y : Fin 32) :
    (drawCells d cells).1.pixel x y = if (x, y) ∈ cells then !d.pixel x y else d.pixel x y :=
  (foldl_drawCell cells hd d false).1 x y

/-- The drawing loop's collision bit: some drawn cell was on before (R174). -/
theorem collision_drawCells (d : Display) (cells : List Cell) (hd : cells.Nodup) :
    (drawCells d cells).2 = cells.any fun p => d.pixel p.1 p.2 := by
  have h := (foldl_drawCell cells hd d false).2
  rwa [Bool.false_or] at h

end Sys2Proof.Machine
end

