-- ==== Sys2Proof/Laws/Tick.lean ====
section
/-! SUPPORT. What fetch, execution, a tick and a step can do, said once. -/

namespace Sys2Proof.Machine

/-! ### Outcomes of the meanings -/

/-- Every instruction answers a next state: execution never stops on its own (R210, R221). -/
theorem exec_next (i : Instr) (s : State) : ∃ t, exec i s = .next t := by
  cases i with
  | call nnn =>
    cases h : s.push s.pc with
    | some t => exact ⟨_, by simp only [exec, execCall, h]; rfl⟩
    | none => exact ⟨_, by simp only [exec, execCall, h]; rfl⟩
  | ret =>
    cases h : s.pop with
    | some p => exact ⟨_, by simp only [exec, execRet, h]; rfl⟩
    | none => exact ⟨_, by simp only [exec, execRet, h]; rfl⟩
  | addI x =>
    by_cases h : s.cfg.quirkAddiVf = true
    · exact ⟨_, by simp only [exec, execAddI, h, if_true]; rfl⟩
    · exact ⟨_, by simp only [exec, execAddI, h]; rfl⟩
  | ldVxK x =>
    cases h : s.firstPress with
    | some k => exact ⟨_, by simp only [exec, execLdVxK, h]; rfl⟩
    | none => exact ⟨_, by simp only [exec, execLdVxK, h]; rfl⟩
  | _ => exact ⟨_, rfl⟩

/-- CALL's two outcomes: the push and the jump, or StackOverflow (R102). -/
theorem execCall_cases (nnn : Addr) (s : State) :
    (∃ t, s.push s.pc = some t ∧ execCall nnn s = .next (t.setPc (zext16 nnn))) ∨
    (s.push s.pc = none ∧ execCall nnn s = .next (s.takeFault .stackOverflow s.instrAddr)) := by
  unfold execCall
  cases s.push s.pc with
  | some t => exact .inl ⟨t, rfl, rfl⟩
  | none => exact .inr ⟨rfl, rfl⟩

/-- RET's two outcomes: the popped address, or StackUnderflow (R103). -/
theorem execRet_cases (s : State) :
    (∃ w t, s.pop = some (w, t) ∧ execRet s = .next (t.setPc w)) ∨
    (s.pop = none ∧ execRet s = .next (s.takeFault .stackUnderflow s.instrAddr)) := by
  unfold execRet
  cases s.pop with
  | some p => exact .inl ⟨p.1, p.2, rfl, rfl⟩
  | none => exact .inr ⟨rfl, rfl⟩

/-! ### Fetch -/

/-- Fetch answers nothing exactly where PC + 1 > 0xFFF (R93). -/
theorem State.fetch_none {s : State} : s.fetch = none ↔ 0xFFF < s.pc.toNat + 1 := by
  unfold State.fetch
  split <;> simp <;> omega

/-- Inside the bound, fetch answers the word at PC (R92). -/
theorem State.fetch_some {s : State} (h : s.pc.toNat + 1 ≤ 0xFFF) : s.fetch = some (s.readWord s.pc) :=
  if_neg (by omega)

/-! ### Ticks and steps -/

/-- A tick on an engine that has faulted has no step (R91). -/
theorem tick_faulted {s : State} {f : FaultRecord} (h : s.fault = some f) : tick s = .fault (.halted f.kind f.pc) := by
  simp only [tick, h]

/-- A tick past the fetch bound raises FetchOutOfBounds and changes nothing else (R93, R215). -/
theorem tick_outOfBounds {s : State} (h : s.fault = none) (hf : s.fetch = none) :
    tick s = .next (s.takeFault .fetchOutOfBounds s.pc) := by
  simp only [tick, h, hf]

/-- A tick that fetches a word executes it, and ends (R90). -/
theorem tick_fetched {s : State} {op : Word} (h : s.fault = none) (hf : s.fetch = some op) :
    tick s = endOutcome (execDecoded (decode op) s.advance) := by
  simp only [tick, h, hf]

/-- The three things a tick can do. -/
theorem tick_cases (s : State) :
    (∃ f, s.fault = some f ∧ tick s = .fault (.halted f.kind f.pc)) ∨
    (s.fault = none ∧ s.fetch = none ∧ tick s = .next (s.takeFault .fetchOutOfBounds s.pc)) ∨
    (∃ op t, s.fault = none ∧ s.fetch = some op ∧ execDecoded (decode op) s.advance = .next t ∧
      tick s = .next t.endTick) := by
  cases h : s.fault with
  | some f => exact .inl ⟨f, rfl, tick_faulted h⟩
  | none =>
    cases hf : s.fetch with
    | none => exact .inr (.inl ⟨rfl, rfl, tick_outOfBounds h hf⟩)
    | some op =>
      refine .inr (.inr ⟨op, ?_⟩)
      cases hd : decode op with
      | unassigned w =>
        exact ⟨s.advance, rfl, rfl, rfl, by rw [tick_fetched h hf, hd]; rfl⟩
      | variant i =>
        obtain ⟨t, ht⟩ := exec_next i s.advance
        exact ⟨t, rfl, rfl, ht, by rw [tick_fetched h hf, hd]; simp only [execDecoded, ht, endOutcome]⟩

/-- What the end of a tick changes: KEYS_SEEN where no fault was raised (R98). -/
theorem State.endTick_eq (s : State) :
    s.endTick = { s with keysSeen := if s.fault.isNone then s.keys else s.keysSeen } := by
  obtain ⟨v, i, pc, stack, sp, dt, st, mem, disp, keys, keysSeen, fault, cfg, draws, calls⟩ := s
  cases fault <;> rfl

/-- A step is the host's next call, performed (R226, R227). -/
theorem step_eq (s : State) : step s = perform s.nextCall s.dropCall := rfl

/-- The host's calls other than tick always answer a next state (R226). -/
theorem perform_cases (op : HostOp) (s : State) :
    (op = .tick ∧ perform op s = tick s) ∨ (op = .decrementTimers ∧ perform op s = .next s.decrementTimers) ∨
    (∃ k, op = .setKeys k ∧ perform op s = .next (s.setKeys k)) ∨
    (∃ b, op = .loadProgram b ∧ perform op s = .next (s.loadProgram b).2) ∨
    (op = .reset ∧ perform op s = .next s.resetEngine) := by
  cases op with
  | tick => exact .inl ⟨rfl, rfl⟩
  | decrementTimers => exact .inr (.inl ⟨rfl, rfl⟩)
  | setKeys k => exact .inr (.inr (.inl ⟨k, rfl, rfl⟩))
  | loadProgram b => exact .inr (.inr (.inr (.inl ⟨b, rfl, rfl⟩)))
  | reset => exact .inr (.inr (.inr (.inr ⟨rfl, rfl⟩)))

/-- What load_program does: the copy and PC, or nothing (R253, R254). -/
theorem State.loadProgram_cases (s : State) (bytes : List Byte) :
    (bytes.length ≤ 3584 ∧ s.loadProgram bytes = (.ok, { s with
      mem := Memory.writeBytes s.cfg.font s.mem 0x200 bytes, pc := 0x200#16 })) ∨
    (3584 < bytes.length ∧ s.loadProgram bytes = (.loadError, s)) := by
  unfold State.loadProgram progMax
  by_cases h : bytes.length ≤ 3584
  · exact .inl ⟨h, by rw [if_pos h]; rfl⟩
  · exact .inr ⟨by omega, by rw [if_neg h]⟩

end Sys2Proof.Machine
end

