-- ==== Sys2Proof/Laws/Frame.lean ====
section
/-! SUPPORT. The frame relation OnlyChanges, runs of several steps, and a step that fetches. -/

namespace Sys2Proof.Machine

/-! ### Frames -/

/-- A state changes nothing of itself. -/
theorem OnlyChanges.refl (l : List Piece) (s : State) : OnlyChanges l s s := by
  intro p _; cases p <;> simp [SamePiece]

/-- Frames compose. -/
theorem OnlyChanges.trans {l : List Piece} {s t u : State} (h1 : OnlyChanges l s t) (h2 : OnlyChanges l t u) :
    OnlyChanges l s u := by
  intro p hp
  have a := h1 p hp
  have b := h2 p hp
  cases p <;> simp_all [SamePiece]

/-- A frame may list more pieces. -/
theorem OnlyChanges.mono {l m : List Piece} {s t : State} (h : OnlyChanges l s t) (hlm : ∀ p ∈ l, p ∈ m) :
    OnlyChanges m s t := fun p hp => h p fun hl => hp (hlm p hl)

/-! ### Runs -/

/-- A run of k + 1 steps whose first step answers a next state. -/
theorem run_next {s t : State} (k : Nat) (h : step s = .next t) :
    Host.Core.run Sys2Proof.core (k + 1) s = Host.Core.run Sys2Proof.core k t := by
  have h' : Sys2Proof.core.step s = .next t := h
  exact (Host.Core.run.eq_2 Sys2Proof.core s k).trans (by simp only [h'])

/-- A run whose first step is a fault. -/
theorem run_fault {s : State} {f : Fault} (k : Nat) (h : step s = .fault f) :
    Host.Core.run Sys2Proof.core (k + 1) s = .fault f := by
  have h' : Sys2Proof.core.step s = .fault f := h
  exact (Host.Core.run.eq_2 Sys2Proof.core s k).trans (by simp only [h'])

/-! ### A step that is a tick -/

/-- Where the host's next call is tick, a step is a tick on the state without that call. -/
theorem step_tick {s : State} (h : s.nextCall = .tick) : step s = tick s.dropCall := by
  rw [step_eq, h]; rfl

/-- A step from a state that can fetch executes the word at PC, and ends the tick. -/
theorem step_fetched {s : State} (h : CanFetch s) :
    step s = endOutcome (execDecoded (decode (s.readWord s.pc)) s.executing) := by
  rw [step_tick h.1,
    tick_fetched (op := s.readWord s.pc) (s := s.dropCall) h.2.1 (State.fetch_some (s := s.dropCall) h.2.2)]
  rfl

/-- PC in the executing state: the instruction's address plus 2, without a wrap (R94). -/
theorem State.executing_pc {s : State} (h : s.pc.toNat + 1 ≤ 0xFFF) : s.executing.pc.toNat = s.pc.toNat + 2 := by
  simp only [State.executing, State.advance_pc, State.dropCall_pc, BitVec.toNat_add, show (2 : Word).toNat = 2 from rfl]
  omega

/-- The address a fault records is that of the instruction (R96, R215). -/
theorem State.executing_instrAddr (s : State) : s.executing.instrAddr = s.pc := by
  simp [State.instrAddr, State.executing]

end Sys2Proof.Machine
end

