-- ==== Sys2Proof/Laws/PerInstr.lean ====
section
/-! SUPPORT. Families of statements about the instructions as syntax, one lemma per constructor: TableRow (an instruction's word
matches its row of 30_encoding.md R79) and CanonicalWord (its word has 0 in the bits the variant ignores, R82). -/

namespace Sys2Proof.Laws

/-- A word of format F_NNN under the mask 0xF000. -/
theorem encodeNNN_mask (g : BitVec 4) (nnn : Addr) : encodeNNN g nnn &&& 0xF000#16 = BitVec.ofNat 16 (g.toNat * 4096) := by
  apply BitVec.eq_of_toNat_eq
  have := g.isLt; have := nnn.isLt
  rw [mask_high, encodeNNN_toNat, BitVec.toNat_ofNat]; omega

/-- A word of format F_XKK under the mask 0xF000. -/
theorem encodeXKK_mask (g : BitVec 4) (x : Reg) (kk : Byte) :
    encodeXKK g x kk &&& 0xF000#16 = BitVec.ofNat 16 (g.toNat * 4096) := by
  apply BitVec.eq_of_toNat_eq
  have := g.isLt; have := kk.isLt
  rw [mask_high, encodeXKK_toNat, BitVec.toNat_ofNat]; omega

/-- A word of format F_XFN under the mask 0xF0FF. -/
theorem encodeXFN_mask (g : BitVec 4) (x : Reg) (kk : Byte) :
    encodeXKK g x kk &&& 0xF0FF#16 = BitVec.ofNat 16 (g.toNat * 4096 + kk.toNat) := by
  apply BitVec.eq_of_toNat_eq
  have := g.isLt; have := kk.isLt
  rw [mask_F0FF, encodeXKK_toNat, BitVec.toNat_ofNat]; omega

/-- A word of format F_XYN under the mask 0xF000. -/
theorem encodeXYN_mask (g : BitVec 4) (x y : Reg) (n : Fin 16) :
    encodeXYN g x y n &&& 0xF000#16 = BitVec.ofNat 16 (g.toNat * 4096) := by
  apply BitVec.eq_of_toNat_eq
  have := g.isLt
  rw [mask_high, encodeXYN_toNat, BitVec.toNat_ofNat]; omega

/-- A word of format F_XYN under the mask 0xF00F. -/
theorem encodeXYN_maskN (g : BitVec 4) (x y : Reg) (n : Fin 16) :
    encodeXYN g x y n &&& 0xF00F#16 = BitVec.ofNat 16 (g.toNat * 4096 + n.val) := by
  apply BitVec.eq_of_toNat_eq
  have := g.isLt
  rw [mask_F00F, encodeXYN_toNat, BitVec.toNat_ofNat]; omega

/-- The low nibble of a word of format F_XYN. -/
theorem encodeXYN_low (g : BitVec 4) (x y : Reg) (n : Fin 16) :
    encodeXYN g x y n &&& 0x000F#16 = BitVec.ofNat 16 n.val := by
  apply BitVec.eq_of_toNat_eq
  rw [show (encodeXYN g x y n &&& 0x000F#16).toNat = (encodeXYN g x y n).toNat % 16 from mask_low _ 4 (by decide),
    encodeXYN_toNat, BitVec.toNat_ofNat]; omega

/-- An instruction's word matches its row of the decode table: word & mask = match (R79). -/
def TableRow.Statement (i : Instr) : Prop := encode i &&& (rowOf i).1 = (rowOf i).2

/-- An instruction's word has 0 in every bit its variant ignores (R82). -/
def CanonicalWord.Statement (i : Instr) : Prop := encode i &&& ignoredBits i = 0#16

/-! ### TableRow -/

theorem TableRow.sys (nnn : Addr) : TableRow.Statement (.sys nnn) := encodeNNN_mask 0x0#4 nnn
theorem TableRow.cls : TableRow.Statement .cls := by unfold TableRow.Statement; decide
theorem TableRow.ret : TableRow.Statement .ret := by unfold TableRow.Statement; decide
theorem TableRow.jp (nnn : Addr) : TableRow.Statement (.jp nnn) := encodeNNN_mask 0x1#4 nnn
theorem TableRow.call (nnn : Addr) : TableRow.Statement (.call nnn) := encodeNNN_mask 0x2#4 nnn
theorem TableRow.seImm (x : Reg) (kk : Byte) : TableRow.Statement (.seImm x kk) := encodeXKK_mask 0x3#4 x kk
theorem TableRow.sneImm (x : Reg) (kk : Byte) : TableRow.Statement (.sneImm x kk) := encodeXKK_mask 0x4#4 x kk
theorem TableRow.seReg (x : Reg) (y : Reg) : TableRow.Statement (.seReg x y) := encodeXYN_mask 0x5#4 x y 0
theorem TableRow.ldImm (x : Reg) (kk : Byte) : TableRow.Statement (.ldImm x kk) := encodeXKK_mask 0x6#4 x kk
theorem TableRow.addImm (x : Reg) (kk : Byte) : TableRow.Statement (.addImm x kk) := encodeXKK_mask 0x7#4 x kk
theorem TableRow.ldReg (x : Reg) (y : Reg) : TableRow.Statement (.ldReg x y) := encodeXYN_maskN 0x8#4 x y 0
theorem TableRow.orReg (x : Reg) (y : Reg) : TableRow.Statement (.orReg x y) := encodeXYN_maskN 0x8#4 x y 1
theorem TableRow.andReg (x : Reg) (y : Reg) : TableRow.Statement (.andReg x y) := encodeXYN_maskN 0x8#4 x y 2
theorem TableRow.xorReg (x : Reg) (y : Reg) : TableRow.Statement (.xorReg x y) := encodeXYN_maskN 0x8#4 x y 3
theorem TableRow.addReg (x : Reg) (y : Reg) : TableRow.Statement (.addReg x y) := encodeXYN_maskN 0x8#4 x y 4
theorem TableRow.subReg (x : Reg) (y : Reg) : TableRow.Statement (.subReg x y) := encodeXYN_maskN 0x8#4 x y 5
theorem TableRow.shr (x : Reg) (y : Reg) : TableRow.Statement (.shr x y) := encodeXYN_maskN 0x8#4 x y 6
theorem TableRow.subn (x : Reg) (y : Reg) : TableRow.Statement (.subn x y) := encodeXYN_maskN 0x8#4 x y 7
theorem TableRow.shl (x : Reg) (y : Reg) : TableRow.Statement (.shl x y) := encodeXYN_maskN 0x8#4 x y 14
theorem TableRow.sneReg (x : Reg) (y : Reg) : TableRow.Statement (.sneReg x y) := encodeXYN_mask 0x9#4 x y 0
theorem TableRow.ldI (nnn : Addr) : TableRow.Statement (.ldI nnn) := encodeNNN_mask 0xA#4 nnn
theorem TableRow.jpV0 (nnn : Addr) : TableRow.Statement (.jpV0 nnn) := encodeNNN_mask 0xB#4 nnn
theorem TableRow.rnd (x : Reg) (kk : Byte) : TableRow.Statement (.rnd x kk) := encodeXKK_mask 0xC#4 x kk
theorem TableRow.drw (x : Reg) (y : Reg) (n : Fin 16) : TableRow.Statement (.drw x y n) := encodeXYN_mask 0xD#4 x y n
theorem TableRow.skp (x : Reg) : TableRow.Statement (.skp x) := encodeXFN_mask 0xE#4 x 0x9E#8
theorem TableRow.sknp (x : Reg) : TableRow.Statement (.sknp x) := encodeXFN_mask 0xE#4 x 0xA1#8
theorem TableRow.ldVxDt (x : Reg) : TableRow.Statement (.ldVxDt x) := encodeXFN_mask 0xF#4 x 0x07#8
theorem TableRow.ldVxK (x : Reg) : TableRow.Statement (.ldVxK x) := encodeXFN_mask 0xF#4 x 0x0A#8
theorem TableRow.ldDtVx (x : Reg) : TableRow.Statement (.ldDtVx x) := encodeXFN_mask 0xF#4 x 0x15#8
theorem TableRow.ldStVx (x : Reg) : TableRow.Statement (.ldStVx x) := encodeXFN_mask 0xF#4 x 0x18#8
theorem TableRow.addI (x : Reg) : TableRow.Statement (.addI x) := encodeXFN_mask 0xF#4 x 0x1E#8
theorem TableRow.ldF (x : Reg) : TableRow.Statement (.ldF x) := encodeXFN_mask 0xF#4 x 0x29#8
theorem TableRow.ldB (x : Reg) : TableRow.Statement (.ldB x) := encodeXFN_mask 0xF#4 x 0x33#8
theorem TableRow.ldMemVx (x : Reg) : TableRow.Statement (.ldMemVx x) := encodeXFN_mask 0xF#4 x 0x55#8
theorem TableRow.ldVxMem (x : Reg) : TableRow.Statement (.ldVxMem x) := encodeXFN_mask 0xF#4 x 0x65#8

/-! ### CanonicalWord -/

theorem CanonicalWord.sys (nnn : Addr) : CanonicalWord.Statement (.sys nnn) := BitVec.and_zero
theorem CanonicalWord.cls : CanonicalWord.Statement .cls := by unfold CanonicalWord.Statement; decide
theorem CanonicalWord.ret : CanonicalWord.Statement .ret := by unfold CanonicalWord.Statement; decide
theorem CanonicalWord.jp (nnn : Addr) : CanonicalWord.Statement (.jp nnn) := BitVec.and_zero
theorem CanonicalWord.call (nnn : Addr) : CanonicalWord.Statement (.call nnn) := BitVec.and_zero
theorem CanonicalWord.seImm (x : Reg) (kk : Byte) : CanonicalWord.Statement (.seImm x kk) := BitVec.and_zero
theorem CanonicalWord.sneImm (x : Reg) (kk : Byte) : CanonicalWord.Statement (.sneImm x kk) := BitVec.and_zero
theorem CanonicalWord.seReg (x : Reg) (y : Reg) : CanonicalWord.Statement (.seReg x y) := encodeXYN_low 0x5#4 x y 0
theorem CanonicalWord.ldImm (x : Reg) (kk : Byte) : CanonicalWord.Statement (.ldImm x kk) := BitVec.and_zero
theorem CanonicalWord.addImm (x : Reg) (kk : Byte) : CanonicalWord.Statement (.addImm x kk) := BitVec.and_zero
theorem CanonicalWord.ldReg (x : Reg) (y : Reg) : CanonicalWord.Statement (.ldReg x y) := BitVec.and_zero
theorem CanonicalWord.orReg (x : Reg) (y : Reg) : CanonicalWord.Statement (.orReg x y) := BitVec.and_zero
theorem CanonicalWord.andReg (x : Reg) (y : Reg) : CanonicalWord.Statement (.andReg x y) := BitVec.and_zero
theorem CanonicalWord.xorReg (x : Reg) (y : Reg) : CanonicalWord.Statement (.xorReg x y) := BitVec.and_zero
theorem CanonicalWord.addReg (x : Reg) (y : Reg) : CanonicalWord.Statement (.addReg x y) := BitVec.and_zero
theorem CanonicalWord.subReg (x : Reg) (y : Reg) : CanonicalWord.Statement (.subReg x y) := BitVec.and_zero
theorem CanonicalWord.shr (x : Reg) (y : Reg) : CanonicalWord.Statement (.shr x y) := BitVec.and_zero
theorem CanonicalWord.subn (x : Reg) (y : Reg) : CanonicalWord.Statement (.subn x y) := BitVec.and_zero
theorem CanonicalWord.shl (x : Reg) (y : Reg) : CanonicalWord.Statement (.shl x y) := BitVec.and_zero
theorem CanonicalWord.sneReg (x : Reg) (y : Reg) : CanonicalWord.Statement (.sneReg x y) := encodeXYN_low 0x9#4 x y 0
theorem CanonicalWord.ldI (nnn : Addr) : CanonicalWord.Statement (.ldI nnn) := BitVec.and_zero
theorem CanonicalWord.jpV0 (nnn : Addr) : CanonicalWord.Statement (.jpV0 nnn) := BitVec.and_zero
theorem CanonicalWord.rnd (x : Reg) (kk : Byte) : CanonicalWord.Statement (.rnd x kk) := BitVec.and_zero
theorem CanonicalWord.drw (x : Reg) (y : Reg) (n : Fin 16) : CanonicalWord.Statement (.drw x y n) := BitVec.and_zero
theorem CanonicalWord.skp (x : Reg) : CanonicalWord.Statement (.skp x) := BitVec.and_zero
theorem CanonicalWord.sknp (x : Reg) : CanonicalWord.Statement (.sknp x) := BitVec.and_zero
theorem CanonicalWord.ldVxDt (x : Reg) : CanonicalWord.Statement (.ldVxDt x) := BitVec.and_zero
theorem CanonicalWord.ldVxK (x : Reg) : CanonicalWord.Statement (.ldVxK x) := BitVec.and_zero
theorem CanonicalWord.ldDtVx (x : Reg) : CanonicalWord.Statement (.ldDtVx x) := BitVec.and_zero
theorem CanonicalWord.ldStVx (x : Reg) : CanonicalWord.Statement (.ldStVx x) := BitVec.and_zero
theorem CanonicalWord.addI (x : Reg) : CanonicalWord.Statement (.addI x) := BitVec.and_zero
theorem CanonicalWord.ldF (x : Reg) : CanonicalWord.Statement (.ldF x) := BitVec.and_zero
theorem CanonicalWord.ldB (x : Reg) : CanonicalWord.Statement (.ldB x) := BitVec.and_zero
theorem CanonicalWord.ldMemVx (x : Reg) : CanonicalWord.Statement (.ldMemVx x) := BitVec.and_zero
theorem CanonicalWord.ldVxMem (x : Reg) : CanonicalWord.Statement (.ldVxMem x) := BitVec.and_zero

end Sys2Proof.Laws
end

