-- ==== Sys2Proof/Tests/Slice0.lean ====
section
/-! SUPPORT. The model's own tests: the ill-formed terms, every row's word, vectors of 95_test_vectors.md (their numbers in the
comments) on one step each, and for every statement with hypotheses a witness that meets them together. -/

namespace Sys2Proof.Tests

open Sys2Proof.Machine

/-! ## Well-formedness: the check's two refusals (R74) -/

theorem test_illformed_sys_e0 : (Instr.sys 0x3E0#12).wellFormed = false := by decide
theorem test_illformed_sys_ee : (Instr.sys 0x0EE#12).wellFormed = false := by decide
theorem test_wellformed_sys : (Instr.sys 0x123#12).wellFormed = true := by decide

/-! ## Decode: words written out from the rows of R79, every constructor -/

theorem test_decode_control_flow :
    decode 0x0123#16 = .variant (.sys 0x123#12) ∧ decode 0x00EE#16 = .variant .ret ∧
    decode 0x1ABC#16 = .variant (.jp 0xABC#12) ∧ decode 0x2400#16 = .variant (.call 0x400#12) ∧
    decode 0x3205#16 = .variant (.seImm 2 0x05#8) ∧ decode 0x4F06#16 = .variant (.sneImm 15 0x06#8) ∧
    decode 0x5121#16 = .variant (.seReg 1 2) ∧ decode 0x9AB0#16 = .variant (.sneReg 10 11) ∧
    decode 0xBF80#16 = .variant (.jpV0 0xF80#12) := by decide

theorem test_decode_register :
    decode 0x6AFF#16 = .variant (.ldImm 10 0xFF#8) ∧ decode 0x7302#16 = .variant (.addImm 3 0x02#8) ∧
    decode 0x8F00#16 = .variant (.ldReg 15 0) ∧ decode 0x8011#16 = .variant (.orReg 0 1) ∧
    decode 0x8232#16 = .variant (.andReg 2 3) ∧ decode 0x8453#16 = .variant (.xorReg 4 5) ∧
    decode 0x80F4#16 = .variant (.addReg 0 15) ∧ decode 0x8015#16 = .variant (.subReg 0 1) ∧
    decode 0x8016#16 = .variant (.shr 0 1) ∧ decode 0x8F17#16 = .variant (.subn 15 1) ∧
    decode 0x801E#16 = .variant (.shl 0 1) ∧ decode 0xC30F#16 = .variant (.rnd 3 0x0F#8) := by decide

theorem test_decode_index_memory :
    decode 0xA2F0#16 = .variant (.ldI 0x2F0#12) ∧ decode 0xF11E#16 = .variant (.addI 1) ∧
    decode 0xF029#16 = .variant (.ldF 0) ∧ decode 0xFA33#16 = .variant (.ldB 10) ∧
    decode 0xF155#16 = .variant (.ldMemVx 1) ∧ decode 0xFF65#16 = .variant (.ldVxMem 15) := by decide

theorem test_decode_display :
    decode 0x00E0#16 = .variant .cls ∧ decode 0x05E0#16 = .variant .cls ∧
    decode 0xD125#16 = .variant (.drw 1 2 5) ∧ decode 0xDFF0#16 = .variant (.drw 15 15 0) := by decide

theorem test_decode_keypad_timers :
    decode 0xE59E#16 = .variant (.skp 5) ∧ decode 0xE5A1#16 = .variant (.sknp 5) ∧
    decode 0xF307#16 = .variant (.ldVxDt 3) ∧ decode 0xF30A#16 = .variant (.ldVxK 3) ∧
    decode 0xF015#16 = .variant (.ldDtVx 0) ∧ decode 0xF118#16 = .variant (.ldStVx 1) := by decide

/-- V49, V92 to V95: the Unassigned words of R80. -/
theorem test_decode_unassigned :
    decode 0x8018#16 = .unassigned 0x8018#16 ∧ decode 0xE000#16 = .unassigned 0xE000#16 ∧
    decode 0xF0FF#16 = .unassigned 0xF0FF#16 ∧ decode 0x800F#16 = .unassigned 0x800F#16 ∧
    decode 0xF001#16 = .unassigned 0xF001#16 := by decide

/-- R51, R70: two bytes, the first the high one; the rest is handed back. -/
theorem test_decode_bytes :
    decodeBytes [0x1A#8, 0xBC#8, 0x00#8] = .ok (.jp 0xABC#12, [0x00#8]) ∧
    decodeBytes [0x80#8, 0x18#8] = .error (.unassigned 0x8018#16) ∧ decodeBytes [0x1A#8] = .error .truncated := by
  decide

/-- The words of R79 again, from the encoder: SE Vx, Vy and CLS with 0 in their ignored fields (R82). -/
theorem test_encode :
    encode (.seReg 1 2) = 0x5120#16 ∧ encode .cls = 0x00E0#16 ∧ encode (.shl 0 1) = 0x801E#16 ∧
    encode (.drw 15 1 9) = 0xDF19#16 ∧ encode (.ldVxMem 2) = 0xF265#16 := by decide

theorem test_table_word : decodeTableWord 16 0xD125 = some (.drw 1 2 5) := by decide

/-! ## Steps: the word at 0x200 of a just-constructed engine, as 95_test_vectors.md's conventions say -/

/-- The start state of the vectors: one word loaded, PC = 0x200. -/
def start (op : Word) : State := (State.reset.loadProgram (bytesOfWord op)).2

/-- What a step's next state shows. -/
def seen {α : Type} (o : Host.Outcome State Fault Refusal) (f : State → α) : Option α :=
  match o with
  | .next s => some (f s)
  | .fault _ => none
  | .refused _ => none

/-- The host's snapshot with the keys of a list pressed. -/
def keysOf (l : List Nat) : Keys := Vector.mk ((List.range 16).map fun k => l.contains k).toArray (by simp)

/-- V1: the word at 0xFFE runs, and the advance is not masked. -/
theorem test_fetch_at_ffe :
    seen (step (({ State.reset with pc := 0xFFE#16 } : State).storeWordAtPc 0x6001#16)) (fun s => (s.getV 0, s.pc, s.fault)) =
      some (0x01#8, 0x1000#16, none) := by decide

/-- V2, V3: the fetch bound. -/
theorem test_fetch_bound :
    seen (step { State.reset with pc := 0xFFF#16 }) (fun s => (s.fault, s.pc)) =
      some (some ⟨.fetchOutOfBounds, 0xFFF#16⟩, 0xFFF#16) ∧
    seen (step { State.reset with pc := 0x1000#16 }) (fun s => (s.fault, s.pc)) =
      some (some ⟨.fetchOutOfBounds, 0x1000#16⟩, 0x1000#16) := by decide

/-- V5: an odd PC fetches from 0x201 and 0x202. -/
theorem test_odd_pc :
    seen (step (({ State.reset with pc := 0x201#16 } : State).storeWordAtPc 0x6007#16)) (fun s => (s.getV 0, s.pc)) =
      some (0x07#8, 0x203#16) := by decide

/-- S12: an Unassigned word only advances. -/
theorem test_unassigned_step : seen (step (start 0xE000#16)) (fun s => (s.pc, s.fault)) = some (0x202#16, none) := by decide

/-- V14. -/
theorem test_sys : seen (step (start 0x0123#16)) (fun s => (s.pc, s.sp)) = some (0x202#16, 0) := by decide

/-- V6. -/
theorem test_jp : seen (step (start 0x1ABC#16)) (·.pc) = some 0xABC#16 := by decide

/-- V9: CALL into the last entry. -/
theorem test_call :
    seen (step { start 0x2400#16 with sp := 15 }) (fun s => (s.pc, s.sp, s.stackEntry 15)) =
      some (0x400#16, 16, 0x202#16) := by decide

/-- V10: CALL with a full stack. -/
theorem test_call_overflow :
    seen (step { start 0x2400#16 with sp := 16 }) (fun s => (s.fault, s.pc, s.sp)) =
      some (some ⟨.stackOverflow, 0x200#16⟩, 0x202#16, 16) := by decide

/-- V13: 0x0FEE is RET. -/
theorem test_ret :
    seen (step { start 0x0FEE#16 with sp := 1, stack := State.reset.stack.set 0 0x302#16 }) (fun s => (s.pc, s.sp)) =
      some (0x302#16, 0) := by decide

/-- V12: RET with an empty stack. -/
theorem test_ret_underflow :
    seen (step (start 0x00EE#16)) (fun s => (s.fault, s.pc)) = some (some ⟨.stackUnderflow, 0x200#16⟩, 0x202#16) := by
  decide

/-- V17: the target is not masked. -/
theorem test_jp_v0 : seen (step ((start 0xBF80#16).setV 0 0x80#8)) (·.pc) = some 0x1000#16 := by decide

/-- V18, V19. -/
theorem test_se_imm :
    seen (step ((start 0x3205#16).setV 2 0x05#8)) (·.pc) = some 0x204#16 ∧
    seen (step ((start 0x3205#16).setV 2 0x06#8)) (·.pc) = some 0x202#16 := by decide

/-- V20, V21. -/
theorem test_sne_imm :
    seen (step ((start 0x4205#16).setV 2 0x05#8)) (·.pc) = some 0x202#16 ∧
    seen (step ((start 0x4205#16).setV 2 0x06#8)) (·.pc) = some 0x204#16 := by decide

/-- V22. -/
theorem test_se_reg :
    seen (step (((start 0x5121#16).setV 1 0x07#8).setV 2 0x07#8)) (·.pc) = some 0x204#16 := by decide

/-- V23. -/
theorem test_sne_reg :
    seen (step (((start 0x9120#16).setV 1 0x07#8).setV 2 0x08#8)) (·.pc) = some 0x204#16 := by decide

/-- V26. -/
theorem test_ld_imm : seen (step (start 0x6AFF#16)) (·.getV 10) = some 0xFF#8 := by decide

/-- V27: no carry to VF. -/
theorem test_add_imm :
    seen (step (((start 0x70FF#16).setV 0 0x02#8).setV 15 0x05#8)) (fun s => (s.getV 0, s.getV 15)) =
      some (0x01#8, 0x05#8) := by decide

/-- V29. -/
theorem test_ld_reg : seen (step ((start 0x8F00#16).setV 0 0x44#8)) (·.getV 15) = some 0x44#8 := by decide

/-- V30, V31, V32: VF stays 07. -/
theorem test_logic :
    seen (step ((((start 0x8011#16).setV 0 0xF0#8).setV 1 0x0F#8).setV 15 7)) (fun s => (s.getV 0, s.getV 15)) =
      some (0xFF#8, 7#8) ∧
    seen (step ((((start 0x8012#16).setV 0 0xF0#8).setV 1 0x3C#8).setV 15 7)) (fun s => (s.getV 0, s.getV 15)) =
      some (0x30#8, 7#8) ∧
    seen (step ((((start 0x8013#16).setV 0 0xFF#8).setV 1 0x0F#8).setV 15 7)) (fun s => (s.getV 0, s.getV 15)) =
      some (0xF0#8, 7#8) := by decide

/-- S2; V35: the flag overwrites the sum where VF is the destination. -/
theorem test_add_reg :
    seen (step (((start 0x8014#16).setV 0 0xFF#8).setV 1 0x01#8)) (fun s => (s.getV 0, s.getV 15)) = some (0#8, 1#8) ∧
    seen (step (((start 0x8F14#16).setV 15 0xFF#8).setV 1 0x02#8)) (·.getV 15) = some 1#8 := by decide

/-- V36: the old VF is the operand. -/
theorem test_add_reg_vf_source :
    seen (step (((start 0x80F4#16).setV 0 0x10#8).setV 15 0x01#8)) (fun s => (s.getV 0, s.getV 15)) =
      some (0x11#8, 0#8) := by decide

/-- S3, V37. -/
theorem test_sub_reg :
    seen (step (((start 0x8015#16).setV 0 0x01#8).setV 1 0x02#8)) (fun s => (s.getV 0, s.getV 15)) = some (0xFF#8, 0#8) ∧
    seen (step (((start 0x8015#16).setV 0 0x42#8).setV 1 0x42#8)) (fun s => (s.getV 0, s.getV 15)) = some (0#8, 1#8) := by
  decide

/-- V41, V42. -/
theorem test_subn :
    seen (step (((start 0x8017#16).setV 0 0x05#8).setV 1 0x03#8)) (fun s => (s.getV 0, s.getV 15)) = some (0xFE#8, 0#8) ∧
    seen (step (((start 0x8F17#16).setV 15 0x05#8).setV 1 0x03#8)) (·.getV 15) = some 0#8 := by decide

/-- V44, V45: the source of SHR by QUIRK_SHIFT_VY. -/
theorem test_shr :
    seen (step ((({ start 0x8016#16 with cfg := { defaultConfig with quirkShiftVy := true } } : State).setV 0 0xFF#8).setV 1 4))
      (fun s => (s.getV 0, s.getV 15)) = some (0x02#8, 0#8) ∧
    seen (step (((start 0x8016#16).setV 0 0xFF#8).setV 1 4)) (fun s => (s.getV 0, s.getV 15)) = some (0x7F#8, 1#8) := by
  decide

/-- V46, V48. -/
theorem test_shl :
    seen (step ((start 0x800E#16).setV 0 0x80#8)) (fun s => (s.getV 0, s.getV 15)) = some (0#8, 1#8) ∧
    seen (step ((({ start 0x801E#16 with cfg := { defaultConfig with quirkShiftVy := true } } : State).setV 0 0).setV 1 0xC1#8))
      (fun s => (s.getV 0, s.getV 15)) = some (0x82#8, 1#8) := by decide

/-- R131: one draw is taken and PC advances; V51's value rests on no draw and is the statement RandomByteIsMasked's. -/
theorem test_rnd : seen (step (start 0xC30F#16)) (fun s => (s.pc, s.draws, s.getV 2)) = some (0x202#16, 1, 0#8) := by decide

/-- V53. -/
theorem test_ld_i : seen (step (start 0xAFFF#16)) (·.i) = some 0xFFF#16 := by decide

/-- V54, V57. -/
theorem test_add_i :
    seen (step (({ start 0xF11E#16 with i := 0xFFF#16 } : State).setV 1 2)) (fun s => (s.i, s.getV 15)) =
      some (0x1001#16, 0#8) ∧
    seen (step (({ start 0xF11E#16 with i := 0xFFFF#16 } : State).setV 1 1)) (·.i) = some 0#16 := by decide

/-- V55, V56: VF under QUIRK_ADDI_VF. -/
theorem test_add_i_quirk :
    seen (step (({ start 0xF11E#16 with i := 0xFFF#16, cfg := { defaultConfig with quirkAddiVf := true } } : State).setV 1 2))
      (fun s => (s.i, s.getV 15)) = some (0x1001#16, 1#8) ∧
    seen (step ((({ start 0xF11E#16 with i := 0xFFD#16, cfg := { defaultConfig with quirkAddiVf := true } } : State).setV 1 2).setV
      15 9)) (fun s => (s.i, s.getV 15)) = some (0xFFF#16, 0#8) := by decide

/-- V58, V59. -/
theorem test_ld_f :
    seen (step ((start 0xF029#16).setV 0 0x0F#8)) (·.i) = some 0x04B#16 ∧
    seen (step ((start 0xF029#16).setV 0 0x1A#8)) (·.i) = some 0x032#16 := by decide

/-- V60; V62: the wrap to the first font byte. -/
theorem test_ld_b :
    seen (step (({ start 0xF033#16 with i := 0x300#16 } : State).setV 0 0xFF#8))
      (fun s => (s.readByte 0x300#12, s.readByte 0x301#12, s.readByte 0x302#12)) = some (2#8, 5#8, 5#8) ∧
    seen (step (({ start 0xF033#16 with i := 0xFFE#16 } : State).setV 0 0x7B#8))
      (fun s => (s.readByte 0xFFE#12, s.readByte 0xFFF#12, s.readByte 0x000#12)) = some (1#8, 2#8, 3#8) := by decide

/-- V64, V65. -/
theorem test_ld_mem_vx :
    seen (step ((({ start 0xF055#16 with i := 0x300#16 } : State).setV 0 0xAA#8).setV 1 0xBB#8))
      (fun s => (s.readByte 0x300#12, s.readByte 0x301#12)) = some (0xAA#8, 0#8) ∧
    seen (step (((({ start 0xF255#16 with i := 0xFFF#16 } : State).setV 0 1).setV 1 2).setV 2 3))
      (fun s => (s.readByte 0xFFF#12, s.readByte 0x000#12, s.readByte 0x001#12, s.i)) =
      some (1#8, 2#8, 3#8, 0xFFF#16) := by decide

/-- V67: glyph 1's rows. -/
theorem test_ld_vx_mem :
    seen (step ({ start 0xF165#16 with i := 0x005#16 } : State)) (fun s => (s.getV 0, s.getV 1, s.getV 2, s.i)) =
      some (0x20#8, 0x60#8, 0#8, 0x005#16) := by decide

/-- V68. -/
theorem test_cls :
    seen (step { start 0x00E0#16 with disp := (Display.blank.flip 0 0).flip 63 31 })
      (fun s => (s.disp.pixel 0 0, s.disp.pixel 63 31)) = some (false, false) := by decide

/-- V71: a collision. V77: clipping at the right edge. -/
theorem test_drw :
    seen (step (({ start 0xD011#16 with i := 0x300#16, disp := Display.blank.flip 0 0 } : State).writeByte 0x300#12 0x80#8))
      (fun s => (s.disp.pixel 0 0, s.getV 15)) = some (false, 1#8) ∧
    seen (step ((({ start 0xD011#16 with i := 0x300#16 } : State).setV 0 0x3E#8).writeByte 0x300#12 0xFF#8))
      (fun s => (s.disp.pixel 61 0, s.disp.pixel 62 0, s.disp.pixel 63 0, s.disp.pixel 0 0, s.getV 15)) =
      some (false, true, true, false, 0#8) := by decide

/-- V74: the coordinates are the old VF. V70: n = 0 sets VF to 0. -/
theorem test_drw_vf :
    seen (step ((({ start 0xDFF1#16 with i := 0x300#16 } : State).setV 15 2).writeByte 0x300#12 0xC0#8))
      (fun s => (s.disp.pixel 2 2, s.disp.pixel 3 2, s.disp.pixel 4 2, s.getV 15)) = some (true, true, false, 0#8) ∧
    seen (step ((start 0xD010#16).setV 15 5)) (fun s => (s.disp.pixel 0 0, s.getV 15)) = some (false, 0#8) := by decide

/-- V80, V79. -/
theorem test_skp :
    seen (step (({ start 0xE59E#16 with keys := keysOf [3] } : State).setV 5 0x13#8)) (·.pc) = some 0x204#16 ∧
    seen (step ((start 0xE59E#16).setV 5 0x0A#8)) (·.pc) = some 0x202#16 := by decide

/-- V81, V82. -/
theorem test_sknp :
    seen (step ((start 0xE5A1#16).setV 5 0x0A#8)) (·.pc) = some 0x204#16 ∧
    seen (step (({ start 0xE5A1#16 with keys := keysOf [10] } : State).setV 5 0x0A#8)) (·.pc) = some 0x202#16 := by decide

/-- V85, V86. -/
theorem test_ld_vx_k :
    seen (step { start 0xF30A#16 with keys := keysOf [4, 7], keysSeen := keysOf [4] }) (fun s => (s.getV 3, s.pc)) =
      some (7#8, 0x202#16) ∧
    seen (step { start 0xF30A#16 with keys := keysOf [2, 9] }) (fun s => (s.getV 3, s.pc)) = some (2#8, 0x202#16) := by
  decide

/-- V84, V87: a held key and a release are no transition; the latch follows. -/
theorem test_ld_vx_k_waits :
    seen (step { start 0xF30A#16 with keys := keysOf [4], keysSeen := keysOf [4] }) (·.pc) = some 0x200#16 ∧
    seen (step { start 0xF30A#16 with keysSeen := keysOf [2] }) (fun s => (s.pc, s.keysSeen)) =
      some (0x200#16, keysOf []) := by decide

/-- V89. -/
theorem test_ld_vx_dt : seen (step { start 0xF307#16 with dt := 0x3C#8 }) (·.getV 3) = some 0x3C#8 := by decide

/-- V90. -/
theorem test_ld_dt_vx : seen (step { start 0xF015#16 with dt := 9#8 }) (·.dt) = some 0#8 := by decide

/-- V91. -/
theorem test_ld_st_vx :
    seen (step ((start 0xF118#16).setV 1 5)) (fun s => (s.st, s.soundTimerActive)) = some (5#8, true) := by decide

/-! ## Host calls -/

/-- V4: a faulted engine has no tick. -/
theorem test_tick_faulted :
    (match step { State.reset with fault := some ⟨.stackOverflow, 0x200#16⟩, pc := 0x202#16 } with
      | .fault f => some f | _ => none) = some (.halted .stackOverflow 0x200#16) := by decide

/-- V96: reset clears the fault. -/
theorem test_host_reset :
    seen (step { start 0x6A42#16 with fault := some ⟨.stackUnderflow, 0x400#16⟩, calls := [.reset] })
      (fun s => (s.fault, s.pc, s.readByte 0x200#12, s.calls)) = some (none, 0#16, 0#8, []) := by decide

/-- V97: load_program leaves FAULT. -/
theorem test_host_load :
    seen (step { State.reset with fault := some ⟨.stackOverflow, 0x200#16⟩, calls := [.loadProgram [0x12#8, 0x00#8]] })
      (fun s => (s.readByte 0x200#12, s.readByte 0x201#12, s.pc, s.fault)) =
      some (0x12#8, 0#8, 0x200#16, some ⟨.stackOverflow, 0x200#16⟩) := by decide

/-- V99: the timers run while faulted. -/
theorem test_host_decrement :
    seen (step { State.reset with dt := 1#8, fault := some ⟨.fetchOutOfBounds, 0xFFF#16⟩, calls := [.decrementTimers] })
      (fun s => (s.dt, s.st)) = some (0#8, 0#8) := by decide

/-- V100: set_keys leaves KEYS_SEEN. -/
theorem test_host_set_keys :
    seen (step { State.reset with calls := [.setKeys (keysOf [5])] }) (fun s => (s.keys, s.keysSeen)) =
      some (keysOf [5], keysOf []) := by decide

/-- The host's question: the word is where the next tick fetches, also on a faulted engine whose PC is past the end. -/
theorem test_with_fetch_word :
    seen (step (State.reset.withFetchWord 16 0x6A42)) (·.getV 10) = some 0x42#8 ∧
    seen (step (({ State.reset with pc := 0xFFF#16, fault := some ⟨.fetchOutOfBounds, 0xFFF#16⟩ } : State).withFetchWord 16 0x6A42))
      (·.getV 10) = some 0x42#8 := by decide

/-! ## Witnesses: states and operands that meet the hypotheses of the statements -/

theorem witness_DecodeInvertsEncode : (Instr.drw 15 15 15).wellFormed = true ∧ (Instr.sys 0xFFF#12).wellFormed = true := by
  decide

theorem witness_EncodeInvertsDecode : decode 0x512F#16 = .variant (.seReg 1 2) := by decide

/-- One word for each clause: a variant; a row other than SYS (CLS before SYS); SYS itself. -/
theorem witness_DecodeFollowsTheTable :
    decode 0xF265#16 = .variant (.ldVxMem 2) ∧
    ((∀ nnn, Instr.cls ≠ .sys nnn) ∧ 0x0FE0#16 &&& (rowOf .cls).1 = (rowOf .cls).2) ∧
    (0x0FE1#16 &&& 0xF000#16 = 0#16 ∧ 0x0FE1#16 &&& 0xF0FF#16 ≠ 0x00E0#16 ∧ 0x0FE1#16 &&& 0xF0FF#16 ≠ 0x00EE#16) :=
  ⟨by decide, ⟨(fun _ h => by cases h), by decide⟩, by decide⟩

/-- The last word of memory, and the first PC past it. -/
theorem witness_FetchIsBigEndian :
    ({ State.reset with pc := 0xFFE#16 } : State).pc.toNat + 1 ≤ 0xFFF ∧
    0xFFF < ({ State.reset with pc := 0xFFF#16 } : State).pc.toNat + 1 := by decide

theorem start_canFetch (op : Word) : CanFetch (start op) := ⟨rfl, rfl, show (0x200#16).toNat + 1 ≤ 0xFFF by decide⟩

theorem witness_StepRunsTheDecodedInstruction :
    CanFetch (start 0x6A42#16) ∧
    decodeBytes [(start 0x6A42#16).readByte 0x200#12, (start 0x6A42#16).readByte 0x201#12] = .ok (.ldImm 10 0x42#8, []) ∧
    (Instr.ldImm 10 0x42#8).wellFormed = true := ⟨start_canFetch _, by decide, by decide⟩

theorem witness_UnassignedWordOnlyAdvances :
    CanFetch (start 0x8008#16) ∧ decode ((start 0x8008#16).readWord (start 0x8008#16).pc) = .unassigned 0x8008#16 :=
  ⟨start_canFetch _, by decide⟩

/-- One step that completes, one that faults. -/
theorem witness_TickLatchesKeysUnlessItFaults :
    ((start 0x6A42#16).nextCall = .tick ∧ (start 0x6A42#16).fault = none ∧
      seen (step (start 0x6A42#16)) (·.fault) = some none) ∧
    ((start 0x00EE#16).nextCall = .tick ∧ (start 0x00EE#16).fault = none ∧
      seen (step (start 0x00EE#16)) (·.fault) = some (some ⟨.stackUnderflow, 0x200#16⟩)) := by decide

theorem witness_FetchPastTheEndFaults :
    let s : State := { State.reset with pc := 0xFFF#16 }
    s.nextCall = .tick ∧ s.fault = none ∧ 0xFFF < s.pc.toNat + 1 := by decide

theorem witness_StackFaultEntry :
    (let s : State := { start 0x2400#16 with sp := 16 }
     CanFetch s ∧ decode (s.readWord s.pc) = .variant (.call 0x400#12) ∧ s.sp.val = 16) ∧
    (let s := start 0x00EE#16
     CanFetch s ∧ decode (s.readWord s.pc) = .variant .ret ∧ s.sp.val = 0) :=
  ⟨⟨⟨rfl, rfl, by decide⟩, by decide⟩, ⟨start_canFetch _, by decide⟩⟩

/-- One step for each of the three events. -/
theorem witness_OnlyThreeEventsRaiseFaults :
    seen (step { State.reset with pc := 0xFFF#16 }) (·.fault) = some (some ⟨.fetchOutOfBounds, 0xFFF#16⟩) ∧
    seen (step { start 0x2400#16 with sp := 16 }) (·.fault) = some (some ⟨.stackOverflow, 0x200#16⟩) ∧
    seen (step (start 0x00EE#16)) (·.fault) = some (some ⟨.stackUnderflow, 0x200#16⟩) := by decide

theorem witness_FaultedEngineHasNoTick :
    let s : State := { State.reset with fault := some ⟨.stackOverflow, 0x200#16⟩ }
    s.fault = some ⟨.stackOverflow, 0x200#16⟩ ∧ s.nextCall = .tick := by decide

theorem witness_FaultLastsUntilReset :
    let s : State := { State.reset with fault := some ⟨.stackOverflow, 0x200#16⟩, calls := [.loadProgram [0x12#8]] }
    s.fault = some ⟨.stackOverflow, 0x200#16⟩ ∧ HostOp.reset ∉ s.calls ∧
      ∃ t, Host.Core.run Sys2Proof.core 1 s = .next t := ⟨rfl, by decide, _, rfl⟩

theorem witness_StepKeepsTheInvariant : (start 0x2400#16).Inv ∧ ∃ t, step (start 0x2400#16) = .next t :=
  ⟨by decide, _, rfl⟩

theorem witness_EachPieceHasItsOwnWriters :
    (∃ t, exec (.jp 0x234#12) State.reset = .next t) ∧ (∃ t, exec (.ldB 3) State.reset = .next t) := ⟨⟨_, rfl⟩, ⟨_, rfl⟩⟩

theorem witness_RegistersHaveTheListedWriters :
    ∃ t, exec (.ldImm 10 0x42#8) State.reset = .next t ∧ t.getV 10 ≠ State.reset.getV 10 := ⟨_, rfl, by decide⟩

/-- A jump, a skip and a stay. -/
theorem witness_PcMovesOnlyByControlFlow :
    (∃ t, exec (.jp 0x234#12) State.reset = .next t ∧ t.pc ≠ State.reset.pc) ∧
    (∃ t, exec (.seReg 1 1) State.reset = .next t ∧ t.pc ≠ State.reset.pc) ∧
    (∃ t, exec (.ldVxK 0) State.reset = .next t ∧ t.pc ≠ State.reset.pc) :=
  ⟨⟨_, rfl, by decide⟩, ⟨_, rfl, by decide⟩, ⟨_, rfl, by decide⟩⟩

theorem witness_StepTakesOneCallAndKeepsTheConfiguration :
    ∃ t, step { State.reset with calls := [.setKeys (keysOf [5]), .tick] } = .next t ∧ t.keys ≠ State.reset.keys :=
  ⟨_, rfl, by decide⟩

/-- SP = 1, and every entry above the one in use replaced. -/
theorem witness_StaleStackEntriesAreNeverRead :
    let s : State := { start 0x00EE#16 with sp := 1, stack := State.reset.stack.set 0 0x302#16 }
    let stk : Vector Word 16 := (Vector.replicate 16 0xFFFF#16).set 0 0x302#16
    (∀ j : Fin 16, j.val < s.sp.val → stk[j.val] = s.stack[j.val]) ∧ ∃ t, step s = .next t := ⟨by decide, _, rfl⟩

theorem witness_ResetRestoresConstruction :
    ({ start 0x6A42#16 with fault := some ⟨.stackUnderflow, 0x400#16⟩, calls := [.reset, .tick] } : State).calls =
      .reset :: [.tick] := rfl

theorem witness_CallPushesTheReturnAddress : ({ State.reset with sp := 15 } : State).sp.val < 16 := by decide

theorem witness_RetPopsTheReturnAddress : 0 < ({ State.reset with sp := 16 } : State).sp.val := by decide

/-- S7's shape: a CALL at 0x200 of a subroutine that is one RET. -/
theorem witness_CallThenRetReturns :
    let s := (State.reset.loadProgram [0x22#8, 0x02#8, 0x00#8, 0xEE#8]).2
    CanFetch s ∧ s.calls = [] ∧ s.sp.val < 16 ∧ (0x202#12).toNat + 1 ≤ 0xFFF ∧
      decode (s.readWord s.pc) = .variant (.call 0x202#12) ∧ decode (s.readWord (zext16 0x202#12)) = .variant .ret :=
  ⟨⟨rfl, rfl, by decide⟩, by decide⟩

theorem witness_GlyphAddress : (State.reset.setV 0 0x1A#8).mem = [] := rfl

theorem witness_BcdStoresThreeDigits : Memory.wf (start 0xF033#16).cfg.font (start 0xF033#16).mem := by decide

theorem witness_StoreRegisters :
    Memory.wf (start 0xFF55#16).cfg.font (start 0xFF55#16).mem ∧ (15 : Reg) ≤ 15 ∧
      ∀ k : Reg, k ≤ 15 → 0x300#12 ≠ (start 0xFF55#16).ea k.val := by decide

theorem witness_StoreThenLoadRestoresRegisters :
    Memory.wf State.reset.cfg.font State.reset.mem ∧ ∃ t, exec (.ldMemVx 3) State.reset = .next t ∧
      OnlyChanges [.regs] t (t.setV 2 0x55#8) :=
  ⟨by decide, _, rfl, fun p hp => by cases p <;> simp_all [SamePiece] <;> intros <;> rfl⟩

theorem witness_NextFetchSeesTheStore :
    let s : State := { start 0xF155#16 with i := 0x202#16 }
    CanFetch s ∧ Memory.wf s.cfg.font s.mem ∧ decode (s.readWord s.pc) = .variant (.ldMemVx 1) ∧
      1 ≤ (1 : Reg).val ∧ s.pc.toNat + 3 ≤ 0xFFF ∧ (s.ea 0).toNat = s.pc.toNat + 2 :=
  ⟨⟨rfl, rfl, by decide⟩, by decide⟩

/-- Glyph 0 at (0, 0): it covers an on pixel in the first display and no on pixel in the second. -/
theorem witness_DrawFlipsTheSprite :
    (∃ px py, SpriteCovers { State.reset with disp := Display.blank.flip 0 0 } 0 1 5 px py ∧
      ({ State.reset with disp := Display.blank.flip 0 0 } : State).disp.pixel px py = true) ∧
    (∀ px py, SpriteCovers State.reset 0 1 5 px py → State.reset.disp.pixel px py = false) :=
  ⟨⟨0, 0, ⟨0, 0, by decide⟩, by decide⟩, fun px py _ => Display.pixel_blank px py⟩

theorem witness_DrawTwiceRestoresTheDisplay :
    ∃ t, exec (.drw 0 1 5) State.reset = .next t ∧ (t.getV 0).toNat % 64 = (State.reset.getV 0).toNat % 64 ∧
      (t.getV 1).toNat % 32 = (State.reset.getV 1).toNat % 32 := ⟨_, rfl, by decide⟩

theorem witness_KeySkips : ((State.reset.setV 5 0x13#8).getV 5).toNat % 16 = (3 : Fin 16).val := by decide

/-- A press of key 7 beside a held key 4; and no key at all. -/
theorem witness_WaitForKeyPress :
    (let s : State := { State.reset with keys := keysOf [4, 7], keysSeen := keysOf [4] }
     PressTransition s 7 ∧ ∀ j, j < 7 → ¬PressTransition s j) ∧
    (∀ k, ¬PressTransition State.reset k) := by unfold PressTransition; decide

theorem witness_KeyWaitStaysAtItsInstruction :
    CanFetch (start 0xF30A#16) ∧ decode ((start 0xF30A#16).readWord (start 0xF30A#16).pc) = .variant (.ldVxK 3) ∧
      ∀ k, ¬PressTransition (start 0xF30A#16) k := ⟨start_canFetch _, by decide, by unfold PressTransition; decide⟩

theorem witness_DecrementTimersStopsAtZero :
    ({ State.reset with dt := 0x3C#8, st := 1#8, calls := [.decrementTimers, .decrementTimers, .tick] } : State).calls =
      List.replicate 2 .decrementTimers ++ [.tick] := rfl

theorem witness_SetKeysReplacesTheSnapshot :
    ({ State.reset with calls := [.setKeys (keysOf [5])] } : State).calls = .setKeys (keysOf [5]) :: [] := rfl

/-- The largest program, 3584 bytes. -/
theorem witness_LoadProgramCopiesTheImage :
    let s : State := { State.reset with calls := [.loadProgram (List.replicate 3584 0x12#8)] }
    s.calls = .loadProgram (List.replicate 3584 0x12#8) :: [] ∧ (List.replicate 3584 0x12#8).length ≤ 3584 ∧
      Memory.wf s.cfg.font s.mem := ⟨rfl, Nat.le_of_eq List.length_replicate, by decide⟩

/-- One byte more. -/
theorem witness_LoadErrorChangesNothing :
    let s : State := { State.reset with calls := [.loadProgram (List.replicate 3585 0x12#8)] }
    s.calls = .loadProgram (List.replicate 3585 0x12#8) :: [] ∧ 3584 < (List.replicate 3585 0x12#8).length :=
  ⟨rfl, by rw [List.length_replicate]; decide⟩

/-- A fault of each kind. -/
theorem witness_HostReads :
    ({ State.reset with fault := some ⟨.stackOverflow, 0x200#16⟩ } : State).fault = some ⟨.stackOverflow, 0x200#16⟩ ∧
    ({ State.reset with fault := some ⟨.stackUnderflow, 0x400#16⟩ } : State).fault = some ⟨.stackUnderflow, 0x400#16⟩ ∧
    ({ State.reset with fault := some ⟨.fetchOutOfBounds, 0xFFF#16⟩ } : State).fault = some ⟨.fetchOutOfBounds, 0xFFF#16⟩ :=
  ⟨rfl, rfl, rfl⟩

theorem witness_FinishedRunStays :
    (start 0x1200#16).runStatus = .finished ∧ (start 0x1200#16).nextCall = .tick := by decide

end Sys2Proof.Tests
end

section
/-! PROOFS. The statements of 20_memory.md: the word an instruction fetch reads. -/

namespace Sys2Proof.Machine

/-- The address of a fetched word's low byte: truncating to 12 bits after the 16-bit increment is truncating the sum. -/
theorem setWidth_add_one (a : Word) : (a + 1).setWidth 12 = BitVec.ofNat 12 (a.toNat + 1) := by
  apply BitVec.eq_of_toNat_eq
  rw [BitVec.toNat_setWidth, BitVec.toNat_add, BitVec.toNat_ofNat]
  exact Nat.mod_mod_of_dvd _ (by decide)

/-- `MemRead(a, 2)` is the word of the bytes at `a` and `a + 1` (R52), with the addresses written as numbers. -/
theorem State.readWord_eq (s : State) (a : Word) :
    s.readWord a = wordOfBytes (s.readByte (BitVec.ofNat 12 a.toNat)) (s.readByte (BitVec.ofNat 12 (a.toNat + 1))) := by
  rw [State.readWord, setWidth_add_one, BitVec.ofNat_toNat]

/-- Settles O6: inside the bound fetch is `readWord` at PC, whose first byte is the high one; outside it there is no word. -/
theorem fetchIsBigEndian : Obligations.FetchIsBigEndian := by
  intro s
  refine ⟨fun h => ⟨s.readWord s.pc, State.fetch_some h, ?_⟩, State.fetch_none.mpr⟩
  rw [State.readWord_eq, wordOfBytes_toNat]

end Sys2Proof.Machine
end

section
/-! PROOFS. The statements of 41_control_flow.md: SYS, JP and the skips that compare a register with an immediate. -/

namespace Sys2Proof.Machine

/-- Zero extension keeps the target address as a number. -/
@[simp] theorem zext16_toNat (nnn : Addr) : (zext16 nnn).toNat = nnn.toNat :=
  BitVec.toNat_setWidth_of_le (by decide)

/-- The frame of every jump and skip: setting PC changes PC alone. -/
theorem OnlyChanges.setPc (s : State) (w : Word) : OnlyChanges [.pc] s (s.setPc w) := by
  intro p hp
  cases p with
  | pc => exact absurd (List.mem_singleton_self _) hp
  | regs | stack | memory => exact fun _ => rfl
  | display => exact fun _ _ => rfl
  | _ => rfl

/-- What each conditional skip does: PC moves by 2 where the condition holds, and nothing else changes (R109). -/
theorem State.skipIf_spec (s : State) (c : Bool) :
    OnlyChanges [.pc] s (s.skipIf c) ∧ (s.skipIf c).pc = if c then s.pc + 2 else s.pc := by
  rw [State.skipIf_eq]
  exact ⟨OnlyChanges.setPc s _, rfl⟩

/-- Settles O25: SYS answers the state itself, JP the state with PC set to nnn, and 0xFFF lies past the fetch bound. -/
theorem sysDoesNothingAndJpSetsPc : Obligations.SysDoesNothingAndJpSetsPc := by
  intro nnn s
  refine ⟨⟨s, rfl, OnlyChanges.refl _ s⟩, s.setPc (zext16 nnn), rfl, OnlyChanges.setPc s _, zext16_toNat nnn, ?_⟩
  rintro rfl
  exact State.fetch_none.mpr (show 0xFFF < (zext16 0xFFF#12).toNat + 1 by decide)

/-- Settles O30: both are conditional skips, SE on V[x] = kk and SNE on its negation. -/
theorem immediateSkips : Obligations.ImmediateSkips := by
  intro x kk s
  obtain ⟨hseFrame, hsePc⟩ := s.skipIf_spec (s.getV x == kk)
  obtain ⟨hsneFrame, hsnePc⟩ := s.skipIf_spec (s.getV x != kk)
  refine ⟨⟨_, rfl, hseFrame, ?_⟩, _, rfl, hsneFrame, ?_⟩
  · simpa using hsePc
  · simpa using hsnePc

end Sys2Proof.Machine
end

section
/-! PROOFS. The statements of 42_register_alu.md: the two register loads. -/

namespace Sys2Proof.Machine

/-- The frame of every instruction whose only effect is a register: setting `V[x]` changes the register file alone. -/
theorem OnlyChanges.setV (s : State) (x : Reg) (b : Byte) : OnlyChanges [.regs] s (s.setV x b) := by
  intro p hp
  cases p with
  | regs => exact absurd (List.mem_singleton_self _) hp
  | stack | memory => exact fun _ => rfl
  | display => exact fun _ _ => rfl
  | _ => rfl

/-- What every load of one register does: `V[x]` holds the byte, every other register and piece what it held. -/
theorem State.setV_spec (s : State) (x : Reg) (b : Byte) :
    OnlyChanges [.regs] s (s.setV x b) ∧ ∀ r, (s.setV x b).getV r = if r = x then b else s.getV r :=
  ⟨OnlyChanges.setV s x b, fun r => s.getV_setV x r b⟩

/-- Settles O32: LD Vx, kk answers `s.setV x kk`, and LD Vx, Vy the same with the old `V[y]` as the byte. -/
theorem registerLoads : Obligations.RegisterLoads := by
  intro x y kk s
  constructor
  · exact ⟨_, rfl, s.setV_spec x kk⟩
  · exact ⟨_, rfl, s.setV_spec x (s.getV y)⟩

end Sys2Proof.Machine
end

section
/-! PROOFS. The statements of 43_index_memory.md: the load of the index register. -/

namespace Sys2Proof.Machine

/-- The frame of every instruction whose only effect is I: setting the index register changes it alone. -/
theorem OnlyChanges.setI (s : State) (w : Word) : OnlyChanges [.index] s (s.setI w) := by
  intro p hp
  cases p with
  | index => exact absurd (List.mem_singleton_self _) hp
  | regs | stack | memory => exact fun _ => rfl
  | display => exact fun _ _ => rfl
  | _ => rfl

/-- Settles O39: LD I, nnn answers `s.setI (zext16 nnn)`, and zero extension keeps nnn as a number. -/
theorem loadIndex : Obligations.LoadIndex := by
  intro nnn s
  exact ⟨_, rfl, OnlyChanges.setI s (zext16 nnn), zext16_toNat nnn⟩

end Sys2Proof.Machine
end

section
/-! PROOFS. The statements of 44_display.md: clearing the display. -/

namespace Sys2Proof.Machine

/-- The frame of replacing the display: every other piece is read from another field of the state. -/
theorem OnlyChanges.withDisp (s : State) (d : Display) : OnlyChanges [.display] s { s with disp := d } := by
  intro p hp
  cases p with
  | display => exact absurd (List.mem_singleton_self _) hp
  | regs | stack | memory => exact fun _ => rfl
  | _ => rfl

/-- Settles O47: CLS puts the blank display, which has no pixel on, in place of the old one. -/
theorem clsClearsTheDisplay : Obligations.ClsClearsTheDisplay := by
  intro s
  exact ⟨{ s with disp := Display.blank }, rfl, OnlyChanges.withDisp s Display.blank, Display.pixel_blank⟩

end Sys2Proof.Machine
end

section
/-! PROOFS. The statements of 45_keypad_timers.md: the moves between a register and the timers. -/

namespace Sys2Proof.Machine

/-- The frame of LD DT, Vx: setting the delay timer changes it alone. -/
theorem OnlyChanges.setDt (s : State) (b : Byte) : OnlyChanges [.delayTimer] s (s.setDt b) := by
  intro p hp
  cases p with
  | delayTimer => exact absurd (List.mem_singleton_self _) hp
  | regs | stack | memory => exact fun _ => rfl
  | display => exact fun _ _ => rfl
  | _ => rfl

/-- The frame of LD ST, Vx: setting the sound timer changes it alone. -/
theorem OnlyChanges.setSt (s : State) (b : Byte) : OnlyChanges [.soundTimer] s (s.setSt b) := by
  intro p hp
  cases p with
  | soundTimer => exact absurd (List.mem_singleton_self _) hp
  | regs | stack | memory => exact fun _ => rfl
  | display => exact fun _ _ => rfl
  | _ => rfl

/-- The host's audio is on exactly while ST is above 0 (R197). -/
theorem State.soundTimerActive_iff (s : State) : s.soundTimerActive = true ↔ 0 < s.st.toNat :=
  decide_eq_true_iff

/-- Settles O53: FX07 is a register load of DT, FX15 and FX18 set one timer to `V[x]`, and the sound follows the new ST. -/
theorem timerMoves : Obligations.TimerMoves := by
  intro x s
  refine ⟨⟨_, rfl, s.setV_spec x s.dt⟩, ?_, ?_⟩
  · exact ⟨s.setDt (s.getV x), rfl, OnlyChanges.setDt s _, State.setDt_dt s _⟩
  · exact ⟨s.setSt (s.getV x), rfl, OnlyChanges.setSt s _, State.setSt_st s _, State.soundTimerActive_iff _⟩

end Sys2Proof.Machine
end

section
/-! PROOFS. The statements of 30_encoding.md: the round trips of encoder and decoder, the decode table, the Unassigned words. -/

namespace Sys2Proof

/-! ### A word is built from its fields (R71) -/

theorem opGroup_lt (op : Word) : opGroup op < 16 := by
  rw [opGroup_eq]; have := op.isLt; omega

/-- A word of group g is format F_NNN over its own field. -/
theorem encodeNNN_fields {op : Word} {g : BitVec 4} (h : opGroup op = g.toNat) : encodeNNN g (opNNN op) = op := by
  apply BitVec.eq_of_toNat_eq
  rw [opGroup_eq] at h
  rw [encodeNNN_toNat, opNNN_toNat]; omega

/-- A word of group g is format F_XKK over its own fields. -/
theorem encodeXKK_fields {op : Word} {g : BitVec 4} {kk : Byte} (h : opGroup op = g.toNat)
    (hk : (opKK op).toNat = kk.toNat) : encodeXKK g (opX op) kk = op := by
  apply BitVec.eq_of_toNat_eq
  rw [opGroup_eq] at h
  rw [opKK_toNat] at hk
  rw [encodeXKK_toNat, opX_val]; omega

/-- A word of group g is format F_XYN over its own fields. -/
theorem encodeXYN_fields {op : Word} {g : BitVec 4} {n : Fin 16} (h : opGroup op = g.toNat)
    (hn : (opN op).val = n.val) : encodeXYN g (opX op) (opY op) n = op := by
  apply BitVec.eq_of_toNat_eq
  rw [opGroup_eq] at h
  rw [opN_val] at hn
  rw [encodeXYN_toNat, opX_val, opY_val]; omega

/-- A word of group g is format F_XYN over its own fields, but for the low nibble where the format has 0 there. -/
theorem encodeXYN_zero_fields {op : Word} {g : BitVec 4} (h : opGroup op = g.toNat) :
    encodeXYN g (opX op) (opY op) 0 = op &&& ~~~0x000F#16 := by
  have hsum := mask_parts op (~~~0x000F#16) 0x000F#16 (by decide)
  rw [show (~~~0x000F#16 ||| 0x000F#16 : Word) = BitVec.allOnes 16 by decide, BitVec.and_allOnes,
    show (op &&& 0x000F#16).toNat = op.toNat % 16 from mask_low op 4 (by decide)] at hsum
  apply BitVec.eq_of_toNat_eq
  rw [opGroup_eq] at h
  rw [encodeXYN_toNat, opX_val, opY_val]; simp only [Fin.val_zero]; omega

/-- A word of group 0 with a given trailing byte is that byte once op[11:8] is cleared. -/
theorem group0_clear_x {op : Word} {kk : Byte} (h : opGroup op = 0) (hk : (opKK op).toNat = kk.toNat) :
    kk.setWidth 16 = op &&& ~~~0x0F00#16 := by
  apply BitVec.eq_of_toNat_eq
  rw [opGroup_eq] at h
  rw [opKK_toNat] at hk
  rw [show (~~~0x0F00#16 : Word) = 0xF0FF#16 by decide, mask_F0FF, BitVec.toNat_setWidth]; omega

/-! ### The groups that look further than the high nibble (R73) -/

theorem decode_group0 {op : Word} (h : opGroup op = 0) : decode op = decodeGroup0 op := by simp only [decode, h]
theorem decode_group8 {op : Word} (h : opGroup op = 8) : decode op = decodeGroup8 op := by simp only [decode, h]
theorem decode_groupE {op : Word} (h : opGroup op = 14) : decode op = decodeGroupE op := by simp only [decode, h]
theorem decode_groupF {op : Word} (h : opGroup op = 15) : decode op = decodeGroupF op := by simp only [decode, h]

/-! ### Decoding an encoded instruction -/

/-- Decoding the word of a well-formed SYS: its trailing byte is neither CLS's nor RET's (R74). -/
theorem decode_encode_sys (nnn : Addr) (h : (Instr.sys nnn).wellFormed = true) :
    decode (encode (.sys nnn)) = .variant (.sys nnn) := by
  simp only [Instr.wellFormed, Bool.and_eq_true, bne_iff_ne, ne_eq, ← BitVec.toNat_inj] at h
  rw [encode, decode_group0 (by simp), decodeGroup0, opKK_encodeNNN, opNNN_encodeNNN]
  split
  · exact absurd ‹_› h.1
  · exact absurd ‹_› h.2
  · rfl

/-- Settles O1: by format, every field read from an encoded word is the operand put there. -/
theorem decodeInvertsEncode : Obligations.DecodeInvertsEncode := by
  intro i hwf
  cases i with
  | sys nnn => exact decode_encode_sys nnn hwf
  | cls | ret => decide
  | jp | call | ldI | jpV0 => simp [encode, decode]
  | seImm | sneImm | ldImm | addImm | rnd => simp [encode, decode]
  | seReg | sneReg | drw => simp [encode, decode]
  | ldReg | orReg | andReg | xorReg | addReg | subReg | shr | subn | shl => simp [encode, decode, decodeGroup8]
  | skp | sknp => simp [encode, decode, decodeGroupE]
  | ldVxDt | ldVxK | ldDtVx | ldStVx | addI | ldF | ldB | ldMemVx | ldVxMem => simp [encode, decode, decodeGroupF]

/-! ### Encoding a decoded word -/

/-- What a decoded variant has to satisfy: it is well formed and its word is the one decoded but for the ignored bits. -/
def EncodesBack (op : Word) (i : Instr) : Prop := i.wellFormed = true ∧ encode i = op &&& ~~~(ignoredBits i)

/-- A variant that ignores no bit encodes back where its word is the one decoded. -/
theorem EncodesBack.of_eq {op : Word} {i : Instr} (hwf : i.wellFormed = true) (hign : ignoredBits i = 0#16)
    (h : encode i = op) : EncodesBack op i :=
  ⟨hwf, by rw [hign, h, BitVec.not_zero, BitVec.and_allOnes]⟩

theorem encodesBack_group0 {op : Word} {i : Instr} (hg : opGroup op = 0) (h : decodeGroup0 op = .variant i) :
    EncodesBack op i := by
  unfold decodeGroup0 at h
  split at h <;> obtain rfl := Decoded.variant.inj h
  · rename_i hk
    exact ⟨rfl, group0_clear_x (kk := 0xE0#8) hg hk⟩
  · rename_i hk
    exact ⟨rfl, group0_clear_x (kk := 0xEE#8) hg hk⟩
  · rename_i hE0 hEE
    have htrail : trailingByte (opNNN op) = opKK op := by
      apply BitVec.eq_of_toNat_eq
      rw [trailingByte_toNat, opNNN_toNat, opKK_toNat]; omega
    refine .of_eq ?_ rfl (encodeNNN_fields (g := 0x0#4) hg)
    simp only [Instr.wellFormed, htrail, Bool.and_eq_true, bne_iff_ne, ne_eq, ← BitVec.toNat_inj]
    exact ⟨hE0, hEE⟩

theorem encodesBack_group8 {op : Word} {i : Instr} (hg : opGroup op = 8) (h : decodeGroup8 op = .variant i) :
    EncodesBack op i := by
  unfold decodeGroup8 at h
  split at h <;> cases h <;> exact .of_eq rfl rfl (encodeXYN_fields (g := 0x8#4) hg ‹_›)

theorem encodesBack_groupE {op : Word} {i : Instr} (hg : opGroup op = 14) (h : decodeGroupE op = .variant i) :
    EncodesBack op i := by
  unfold decodeGroupE at h
  split at h <;> cases h <;> exact .of_eq rfl rfl (encodeXKK_fields (g := 0xE#4) hg ‹_›)

theorem encodesBack_groupF {op : Word} {i : Instr} (hg : opGroup op = 15) (h : decodeGroupF op = .variant i) :
    EncodesBack op i := by
  unfold decodeGroupF at h
  split at h <;> cases h <;> exact .of_eq rfl rfl (encodeXKK_fields (g := 0xF#4) hg ‹_›)

/-- Settles O2: by the groups of R73, each word is rebuilt from the fields decode read. -/
theorem encodeInvertsDecode : Obligations.EncodeInvertsDecode := by
  intro op i h
  show EncodesBack op i
  unfold decode at h
  split at h
  case h_1 hg => exact encodesBack_group0 hg h
  case h_9 hg => exact encodesBack_group8 hg h
  case h_15 hg => exact encodesBack_groupE hg h
  case h_16 hg => exact encodesBack_groupF hg h
  case h_17 => cases h
  -- JP, CALL, LD I and JP V0: format F_NNN
  case h_2 hg | h_3 hg | h_11 hg | h_12 hg =>
    cases h
    exact .of_eq rfl rfl (encodeNNN_fields hg)
  -- SE, SNE, LD, ADD with an immediate, and RND: format F_XKK
  case h_4 hg | h_5 hg | h_7 hg | h_8 hg | h_13 hg =>
    cases h
    exact .of_eq rfl rfl (encodeXKK_fields hg rfl)
  -- DRW: format F_XYN
  case h_14 hg =>
    cases h
    exact .of_eq rfl rfl (encodeXYN_fields hg rfl)
  -- SE Vx, Vy and SNE Vx, Vy: format F_XYN with the low nibble ignored
  case h_6 hg | h_10 hg =>
    cases h
    exact ⟨rfl, encodeXYN_zero_fields hg⟩

/-! ### The table (R79) -/

/-- Every instruction's word matches its row of the decode table. -/
theorem tableRow (i : Instr) : Laws.TableRow.Statement i := by
  cases i
  exacts [Laws.TableRow.sys _, Laws.TableRow.cls, Laws.TableRow.ret, Laws.TableRow.jp _, Laws.TableRow.call _,
    Laws.TableRow.seImm _ _, Laws.TableRow.sneImm _ _, Laws.TableRow.seReg _ _, Laws.TableRow.ldImm _ _,
    Laws.TableRow.addImm _ _, Laws.TableRow.ldReg _ _, Laws.TableRow.orReg _ _, Laws.TableRow.andReg _ _,
    Laws.TableRow.xorReg _ _, Laws.TableRow.addReg _ _, Laws.TableRow.subReg _ _, Laws.TableRow.shr _ _,
    Laws.TableRow.subn _ _, Laws.TableRow.shl _ _, Laws.TableRow.sneReg _ _, Laws.TableRow.ldI _,
    Laws.TableRow.jpV0 _, Laws.TableRow.rnd _ _, Laws.TableRow.drw _ _ _, Laws.TableRow.skp _, Laws.TableRow.sknp _,
    Laws.TableRow.ldVxDt _, Laws.TableRow.ldVxK _, Laws.TableRow.ldDtVx _, Laws.TableRow.ldStVx _,
    Laws.TableRow.addI _, Laws.TableRow.ldF _, Laws.TableRow.ldB _, Laws.TableRow.ldMemVx _, Laws.TableRow.ldVxMem _]

/-- A row's mask holds no ignored bit. -/
theorem not_ignoredBits_and_mask (i : Instr) : ~~~(ignoredBits i) &&& (rowOf i).1 = (rowOf i).1 := by
  have hnone (m : Word) : ~~~0#16 &&& m = m := by rw [BitVec.not_zero, BitVec.allOnes_and]
  cases i with
  | cls | ret => exact show ~~~0x0F00#16 &&& 0xF0FF#16 = 0xF0FF#16 by decide
  | seReg | sneReg => exact show ~~~0x000F#16 &&& 0xF000#16 = 0xF000#16 by decide
  | _ => exact hnone _

/-- A variant's word matches the variant's row: it is the encoding outside the ignored bits, and the mask has none. -/
theorem decode_matches_row {op : Word} {i : Instr} (h : decode op = .variant i) :
    op &&& (rowOf i).1 = (rowOf i).2 := by
  have hrow : encode i &&& (rowOf i).1 = (rowOf i).2 := tableRow i
  rwa [(encodeInvertsDecode op i h).2, BitVec.and_assoc, not_ignoredBits_and_mask] at hrow

theorem opGroup_of_mask_F000 {op m : Word} (h : op &&& 0xF000#16 = m) : opGroup op = m.toNat / 4096 := by
  rw [← h, mask_high, opGroup_eq]; omega

theorem fields_of_mask_F00F {op m : Word} (h : op &&& 0xF00F#16 = m) :
    opGroup op = m.toNat / 4096 ∧ (opN op).val = m.toNat % 16 := by
  rw [← h, mask_F00F, opGroup_eq, opN_val]; omega

theorem fields_of_mask_F0FF {op m : Word} (h : op &&& 0xF0FF#16 = m) :
    opGroup op = m.toNat / 4096 ∧ (opKK op).toNat = m.toNat % 256 := by
  rw [← h, mask_F0FF, opGroup_eq, opKK_toNat]; omega

/-- A word that matches a row other than SYS decodes to an instruction of that row, by the row's mask. -/
theorem decode_of_matches_row {op : Word} (j : Instr) (hj : ∀ nnn, j ≠ .sys nnn)
    (h : op &&& (rowOf j).1 = (rowOf j).2) : ∃ i, decode op = .variant i ∧ rowOf i = rowOf j := by
  cases j with
  | sys nnn => exact absurd rfl (hj nnn)
  | cls | ret =>
    obtain ⟨hg, hk⟩ := fields_of_mask_F0FF h
    simp only [rowOf, BitVec.reduceToNat, Nat.reduceDiv, Nat.reduceMod] at hg hk
    simp only [decode_group0 hg, decodeGroup0, hk]
    exact ⟨_, rfl, rfl⟩
  | skp | sknp =>
    obtain ⟨hg, hk⟩ := fields_of_mask_F0FF h
    simp only [rowOf, BitVec.reduceToNat, Nat.reduceDiv, Nat.reduceMod] at hg hk
    simp only [decode_groupE hg, decodeGroupE, hk]
    exact ⟨_, rfl, rfl⟩
  | ldVxDt | ldVxK | ldDtVx | ldStVx | addI | ldF | ldB | ldMemVx | ldVxMem =>
    obtain ⟨hg, hk⟩ := fields_of_mask_F0FF h
    simp only [rowOf, BitVec.reduceToNat, Nat.reduceDiv, Nat.reduceMod] at hg hk
    simp only [decode_groupF hg, decodeGroupF, hk]
    exact ⟨_, rfl, rfl⟩
  | ldReg | orReg | andReg | xorReg | addReg | subReg | shr | subn | shl =>
    obtain ⟨hg, hn⟩ := fields_of_mask_F00F h
    simp only [rowOf, BitVec.reduceToNat, Nat.reduceDiv, Nat.reduceMod] at hg hn
    simp only [decode_group8 hg, decodeGroup8, hn]
    exact ⟨_, rfl, rfl⟩
  | jp | call | seImm | sneImm | seReg | ldImm | addImm | sneReg | ldI | jpV0 | rnd | drw =>
    have hg := opGroup_of_mask_F000 h
    simp only [rowOf, BitVec.reduceToNat, Nat.reduceDiv] at hg
    simp only [decode, hg]
    exact ⟨_, rfl, rfl⟩

/-- A word of group 0 that is neither CLS nor RET is SYS (R74). -/
theorem decode_sys {op : Word} (h0 : op &&& 0xF000#16 = 0#16) (hcls : op &&& 0xF0FF#16 ≠ 0x00E0#16)
    (hret : op &&& 0xF0FF#16 ≠ 0x00EE#16) : decode op = .variant (.sys (opNNN op)) := by
  have hg : opGroup op = 0 := opGroup_of_mask_F000 h0
  have hmask : (op &&& 0xF0FF#16).toNat = (opKK op).toNat := by
    rw [opGroup_eq] at hg
    rw [mask_F0FF, opKK_toNat]; omega
  rw [ne_eq, ← BitVec.toNat_inj, hmask] at hcls hret
  rw [decode_group0 hg, decodeGroup0]
  split
  · exact absurd ‹_› hcls
  · exact absurd ‹_› hret
  · rfl

/-- Settles O3: the three clauses are the three lemmas above. -/
theorem decodeFollowsTheTable : Obligations.DecodeFollowsTheTable :=
  ⟨fun _ _ => decode_matches_row, fun _ => decode_of_matches_row, fun _ => decode_sys⟩

/-! ### The Unassigned words (R80) -/

theorem decodeGroup8_unassigned {op w : Word} :
    decodeGroup8 op = .unassigned w ↔ w = op ∧ (opN op).val ∈ [0x8, 0x9, 0xA, 0xB, 0xC, 0xD, 0xF] := by
  unfold decodeGroup8
  generalize opN op = n
  fin_cases n <;> simp [eq_comm]

theorem decodeGroupE_unassigned {op w : Word} :
    decodeGroupE op = .unassigned w ↔ w = op ∧ (opKK op).toNat ∉ [0x9E, 0xA1] := by
  unfold decodeGroupE
  split <;> simp_all [eq_comm]

theorem decodeGroupF_unassigned {op w : Word} :
    decodeGroupF op = .unassigned w ↔
      w = op ∧ (opKK op).toNat ∉ [0x07, 0x0A, 0x15, 0x18, 0x1E, 0x29, 0x33, 0x55, 0x65] := by
  unfold decodeGroupF
  split <;> simp_all [eq_comm]

/-- Group 0 has no Unassigned word (R74). -/
theorem decodeGroup0_ne_unassigned (op w : Word) : decodeGroup0 op ≠ .unassigned w := by
  unfold decodeGroup0
  split <;> simp

/-- Settles O4: group by group, only groups 8, E and F answer Unassigned. -/
theorem unassignedWordsAreThoseListed : Obligations.UnassignedWordsAreThoseListed := by
  intro op w
  unfold decode
  split
  case h_1 hg => simp [hg, decodeGroup0_ne_unassigned]
  case h_9 hg => simp only [hg, decodeGroup8_unassigned]; simp
  case h_15 hg => simp only [hg, decodeGroupE_unassigned]; simp
  case h_16 hg => simp only [hg, decodeGroupF_unassigned]; simp
  case h_17 =>
    have hlt := opGroup_lt op
    interval_cases opGroup op <;> contradiction
  -- every other group is one variant
  all_goals simp [*]

/-- Settles O5: eleven closed words, evaluated. -/
theorem exampleWordsDecode : Obligations.ExampleWordsDecode := by
  unfold Obligations.ExampleWordsDecode
  decide

end Sys2Proof
end

section
/-! PROOFS. Frames: what each update of the state, and each instruction, leaves unchanged (10_state.md: who writes what). -/

namespace Sys2Proof.Machine

/-! ### Frames of the updates -/

/-- Two changes in a row change what either of them does. -/
theorem OnlyChanges.append {l m : List Piece} {s t u : State} (h1 : OnlyChanges l s t) (h2 : OnlyChanges m t u) :
    OnlyChanges (l ++ m) s u :=
  (h1.mono fun _ => List.mem_append_left m).trans (h2.mono fun _ => List.mem_append_right l)

theorem OnlyChanges.setVF (s : State) (b : Byte) : OnlyChanges [.regs] s (s.setVF b) := OnlyChanges.setV s 15 b

theorem OnlyChanges.writeResultFlag (s : State) (x : Reg) (b : Byte) (c : Bool) :
    OnlyChanges [.regs] s (s.writeResultFlag x b c) :=
  (OnlyChanges.setV s x b).trans (OnlyChanges.setVF _ _)

theorem OnlyChanges.rand (s : State) : OnlyChanges [.draws] s s.rand.2 := by
  intro p hp; cases p <;> simp_all [SamePiece, State.getV, State.stackEntry, State.readByte]

theorem OnlyChanges.withV (s : State) (v : Vector Byte 16) : OnlyChanges [.regs] s { s with v := v } := by
  intro p hp; cases p <;> simp_all [SamePiece, State.stackEntry, State.readByte]

theorem OnlyChanges.withMem (s : State) (m : Memory) : OnlyChanges [.memory] s { s with mem := m } := by
  intro p hp; cases p <;> simp_all [SamePiece, State.getV, State.stackEntry]

theorem OnlyChanges.withStackSp (s : State) (k : Vector Word 16) (n : Fin 17) :
    OnlyChanges [.stack, .sp] s { s with stack := k, sp := n } := by
  intro p hp; cases p <;> simp_all [SamePiece, State.getV, State.readByte]

theorem OnlyChanges.withSp (s : State) (n : Fin 17) : OnlyChanges [.sp] s { s with sp := n } := by
  intro p hp; cases p <;> simp_all [SamePiece, State.getV, State.stackEntry, State.readByte]

theorem OnlyChanges.takeFault (s : State) (k : FaultKind) (a : Word) : OnlyChanges [.fault] s (s.takeFault k a) := by
  intro p hp; cases p <;> simp_all [SamePiece, State.getV, State.stackEntry, State.readByte]

theorem OnlyChanges.push {s t : State} {w : Word} (h : s.push w = some t) : OnlyChanges [.stack, .sp] s t := by
  obtain ⟨_, rfl⟩ := State.push_some h
  exact OnlyChanges.withStackSp s _ _

theorem OnlyChanges.pop {s t : State} {w : Word} (h : s.pop = some (w, t)) : OnlyChanges [.sp] s t := by
  obtain ⟨_, _, rfl⟩ := State.pop_some h
  exact OnlyChanges.withSp s _

theorem OnlyChanges.storeRegs (s : State) (ks : List Reg) : OnlyChanges [.memory] s (s.storeRegs ks) := by
  obtain ⟨m, hm⟩ := s.storeRegs_eq ks
  rw [hm]
  exact OnlyChanges.withMem s m

theorem OnlyChanges.loadRegs (s : State) (ks : List Reg) : OnlyChanges [.regs] s (s.loadRegs ks) := by
  obtain ⟨v, hv⟩ := s.loadRegs_eq ks
  rw [hv]
  exact OnlyChanges.withV s v

/-! ### The switch of ADD I, Vx and the wait of FX0A -/

/-- ADD I, Vx by the switch QUIRK_ADDI_VF (R151). -/
theorem execAddI_cases (x : Reg) (s : State) :
    (s.cfg.quirkAddiVf = true ∧ execAddI x s =
      .next ((s.setI (sumIndex s.i (s.getV x))).setVF (flagByte (indexOverflow s.i (s.getV x))))) ∨
    (s.cfg.quirkAddiVf = false ∧ execAddI x s = .next (s.setI (sumIndex s.i (s.getV x)))) := by
  cases h : s.cfg.quirkAddiVf with
  | true => exact .inl ⟨rfl, if_pos h⟩
  | false => exact .inr ⟨rfl, if_neg (by rw [h]; exact Bool.false_ne_true)⟩

/-- FX0A stores the lowest newly pressed key, or stays (R193). -/
theorem execLdVxK_cases (x : Reg) (s : State) :
    (∃ k, s.firstPress = some k ∧ execLdVxK x s = .next (s.setV x (BitVec.ofNat 8 k.val))) ∨
    (s.firstPress = none ∧ execLdVxK x s = .next (s.setPc (s.pc - 2))) := by
  unfold execLdVxK
  cases s.firstPress with
  | some k => exact .inl ⟨k, rfl, rfl⟩
  | none => exact .inr ⟨rfl, rfl⟩

/-! ### The four meanings with a choice inside, inverted -/

section Inversions

variable {s t : State}

/-- What CALL can leave: the pushed stack and the jump, or the fault of a full stack. -/
theorem exec_call_inv {nnn : Addr} (h : exec (.call nnn) s = .next t) :
    (∃ u, s.push s.pc = some u ∧ t = u.setPc (zext16 nnn)) ∨
    (s.sp.val = 16 ∧ t = s.takeFault .stackOverflow s.instrAddr) := by
  obtain ⟨u, hu, hx⟩ | ⟨hfull, hx⟩ := execCall_cases nnn s <;> cases hx.symm.trans h
  · exact .inl ⟨u, hu, rfl⟩
  · exact .inr ⟨State.push_none.mp hfull, rfl⟩

/-- What RET can leave: the popped stack and PC, or the fault of an empty stack. -/
theorem exec_ret_inv (h : exec .ret s = .next t) :
    (∃ w u, s.pop = some (w, u) ∧ t = u.setPc w) ∨
    (s.sp.val = 0 ∧ t = s.takeFault .stackUnderflow s.instrAddr) := by
  obtain ⟨w, u, hu, hx⟩ | ⟨hempty, hx⟩ := execRet_cases s <;> cases hx.symm.trans h
  · exact .inl ⟨w, u, hu, rfl⟩
  · exact .inr ⟨State.pop_none.mp hempty, rfl⟩

/-- What ADD I, Vx can leave, by the switch. -/
theorem exec_addI_inv {x : Reg} (h : exec (.addI x) s = .next t) :
    (s.cfg.quirkAddiVf = true ∧
      t = (s.setI (sumIndex s.i (s.getV x))).setVF (flagByte (indexOverflow s.i (s.getV x)))) ∨
    (s.cfg.quirkAddiVf = false ∧ t = s.setI (sumIndex s.i (s.getV x))) := by
  obtain ⟨hq, hx⟩ | ⟨hq, hx⟩ := execAddI_cases x s <;> cases hx.symm.trans h
  · exact .inl ⟨hq, rfl⟩
  · exact .inr ⟨hq, rfl⟩

/-- What FX0A can leave: the key in V[x], or PC back at the instruction. -/
theorem exec_ldVxK_inv {x : Reg} (h : exec (.ldVxK x) s = .next t) :
    (∃ k, s.firstPress = some k ∧ t = s.setV x (BitVec.ofNat 8 k.val)) ∨
    (s.firstPress = none ∧ t = s.setPc (s.pc - 2)) := by
  obtain ⟨k, hk, hx⟩ | ⟨hk, hx⟩ := execLdVxK_cases x s <;> cases hx.symm.trans h
  · exact .inl ⟨k, hk, rfl⟩
  · exact .inr ⟨hk, rfl⟩

end Inversions

/-! ### The frame of every instruction -/

/-- The pieces of state an instruction's meaning may write; each constructor's list is the frame of its rule. -/
def piecesWritten : Instr → List Piece
  | .sys _ => []
  | .cls => [.display]
  | .ret => [.sp, .pc, .fault]
  | .call _ => [.stack, .sp, .pc, .fault]
  | .jp _ | .jpV0 _ => [.pc]
  | .seImm _ _ | .sneImm _ _ | .seReg _ _ | .sneReg _ _ | .skp _ | .sknp _ => [.pc]
  | .ldImm _ _ | .addImm _ _ | .ldReg _ _ | .orReg _ _ | .andReg _ _ | .xorReg _ _ => [.regs]
  | .addReg _ _ | .subReg _ _ | .shr _ _ | .subn _ _ | .shl _ _ => [.regs]
  | .ldVxDt _ | .ldVxMem _ => [.regs]
  | .rnd _ _ => [.draws, .regs]
  | .drw _ _ _ => [.display, .regs]
  | .ldVxK _ => [.regs, .pc]
  | .ldDtVx _ => [.delayTimer]
  | .ldStVx _ => [.soundTimer]
  | .ldI _ | .ldF _ => [.index]
  | .addI _ => [.index, .regs]
  | .ldB _ | .ldMemVx _ => [.memory]

/-- Execution changes no piece outside the instruction's list. -/
theorem exec_frame {i : Instr} {s t : State} (h : exec i s = .next t) : OnlyChanges (piecesWritten i) s t := by
  cases i with
  | sys => cases h; exact OnlyChanges.refl _ s
  | cls => cases h; exact OnlyChanges.withDisp s _
  | jp | jpV0 => cases h; exact OnlyChanges.setPc s _
  | seImm | sneImm | seReg | sneReg | skp | sknp => cases h; exact (State.skipIf_spec s _).1
  | ldImm | addImm | ldReg | orReg | andReg | xorReg | ldVxDt => cases h; exact OnlyChanges.setV s _ _
  | addReg | subReg | shr | subn | shl => cases h; exact OnlyChanges.writeResultFlag s _ _ _
  | rnd => cases h; exact (OnlyChanges.rand s).append (OnlyChanges.setV _ _ _)
  | drw => cases h; exact (OnlyChanges.withDisp s _).append (OnlyChanges.setVF _ _)
  | ldDtVx => cases h; exact OnlyChanges.setDt s _
  | ldStVx => cases h; exact OnlyChanges.setSt s _
  | ldI | ldF => cases h; exact OnlyChanges.setI s _
  | ldB => cases h; exact OnlyChanges.withMem s _
  | ldMemVx => cases h; exact OnlyChanges.storeRegs s _
  | ldVxMem => cases h; exact OnlyChanges.loadRegs s _
  | call nnn =>
    obtain ⟨u, hu, rfl⟩ | ⟨_, rfl⟩ := exec_call_inv h
    · exact ((OnlyChanges.push hu).append (OnlyChanges.setPc u _)).mono (by simp [piecesWritten])
    · exact (OnlyChanges.takeFault s _ _).mono (by simp [piecesWritten])
  | ret =>
    obtain ⟨w, u, hu, rfl⟩ | ⟨_, rfl⟩ := exec_ret_inv h
    · exact ((OnlyChanges.pop hu).append (OnlyChanges.setPc u w)).mono (by simp [piecesWritten])
    · exact (OnlyChanges.takeFault s _ _).mono (by simp [piecesWritten])
  | addI x =>
    obtain ⟨_, rfl⟩ | ⟨_, rfl⟩ := exec_addI_inv h
    · exact (OnlyChanges.setI s _).append (OnlyChanges.setVF _ _)
    · exact (OnlyChanges.setI s _).mono (by simp [piecesWritten])
  | ldVxK x =>
    obtain ⟨k, _, rfl⟩ | ⟨_, rfl⟩ := exec_ldVxK_inv h
    · exact (OnlyChanges.setV s x _).mono (by simp [piecesWritten])
    · exact (OnlyChanges.setPc s _).mono (by simp [piecesWritten])

/-! ### Which instructions write a piece -/

section Writers

variable {i : Instr}

theorem index_not_written (h1 : ∀ nnn, i ≠ .ldI nnn) (h2 : ∀ x, i ≠ .addI x) (h3 : ∀ x, i ≠ .ldF x) :
    .index ∉ piecesWritten i := by cases i <;> simp_all [piecesWritten]

theorem stack_not_written (h : ∀ nnn, i ≠ .call nnn) : .stack ∉ piecesWritten i := by
  cases i <;> simp_all [piecesWritten]

theorem sp_not_written (h1 : ∀ nnn, i ≠ .call nnn) (h2 : i ≠ .ret) : .sp ∉ piecesWritten i := by
  cases i <;> simp_all [piecesWritten]

theorem fault_not_written (h1 : ∀ nnn, i ≠ .call nnn) (h2 : i ≠ .ret) : .fault ∉ piecesWritten i := by
  cases i <;> simp_all [piecesWritten]

theorem delayTimer_not_written (h : ∀ x, i ≠ .ldDtVx x) : .delayTimer ∉ piecesWritten i := by
  cases i <;> simp_all [piecesWritten]

theorem soundTimer_not_written (h : ∀ x, i ≠ .ldStVx x) : .soundTimer ∉ piecesWritten i := by
  cases i <;> simp_all [piecesWritten]

theorem memory_not_written (h1 : ∀ x, i ≠ .ldB x) (h2 : ∀ x, i ≠ .ldMemVx x) : .memory ∉ piecesWritten i := by
  cases i <;> simp_all [piecesWritten]

theorem display_not_written (h1 : i ≠ .cls) (h2 : ∀ x y n, i ≠ .drw x y n) : .display ∉ piecesWritten i := by
  cases i <;> simp_all [piecesWritten]

theorem draws_not_written (h : ∀ x kk, i ≠ .rnd x kk) : .draws ∉ piecesWritten i := by
  cases i <;> simp_all [piecesWritten]

/-- No instruction writes the keys, their snapshot, the configuration or the host's calls (R36, R37, R40). -/
theorem host_pieces_not_written (i : Instr) :
    .keys ∉ piecesWritten i ∧ .keysSeen ∉ piecesWritten i ∧ .config ∉ piecesWritten i ∧ .calls ∉ piecesWritten i := by
  cases i <;> simp [piecesWritten]

end Writers

/-- Settles O18: the frame of the instruction, and for each piece the instructions whose frame lists it. -/
theorem eachPieceHasItsOwnWriters : Obligations.EachPieceHasItsOwnWriters := by
  intro i s t h
  have hf := exec_frame h
  obtain ⟨hkeys, hseen, hconfig, hcalls⟩ := host_pieces_not_written i
  exact ⟨fun h1 h2 h3 => hf _ (index_not_written h1 h2 h3), fun h1 => hf _ (stack_not_written h1),
    fun h1 h2 => ⟨hf _ (sp_not_written h1 h2), hf _ (fault_not_written h1 h2)⟩,
    fun h1 => hf _ (delayTimer_not_written h1), fun h1 => hf _ (soundTimer_not_written h1),
    fun h1 h2 => hf _ (memory_not_written h1 h2), fun h1 h2 => hf _ (display_not_written h1 h2),
    fun h1 => hf _ (draws_not_written h1), hf _ hkeys, hf _ hseen, hf _ hconfig, hf _ hcalls⟩

/-! ### Registers -/

theorem eq_of_getV_setV_ne {s : State} {x r : Reg} {b : Byte} (h : (s.setV x b).getV r ≠ s.getV r) : r = x := by
  by_contra hr
  exact h (by rw [State.getV_setV, if_neg hr])

theorem eq_or_eq_of_getV_writeResultFlag_ne {s : State} {x r : Reg} {b : Byte} {c : Bool}
    (h : (s.writeResultFlag x b c).getV r ≠ s.getV r) : r = x ∨ r = 15 := by
  by_contra hr
  obtain ⟨hx, h15⟩ := not_or.mp hr
  exact h (by rw [State.getV_writeResultFlag, if_neg h15, if_neg hx])

/-- Settles O19: an instruction with registers in its frame writes its destination, VF with a flag, or V[0] to V[x]. -/
theorem registersHaveTheListedWriters : Obligations.RegistersHaveTheListedWriters := by
  intro i s t r h hne
  by_cases hw : Piece.regs ∈ piecesWritten i
  case neg => exact absurd (exec_frame h .regs hw r) hne
  cases i with
  | ldImm | addImm | ldReg | orReg | andReg | xorReg | ldVxDt =>
    cases h
    exact beq_iff_eq.mpr (eq_of_getV_setV_ne hne)
  | rnd =>
    cases h
    exact beq_iff_eq.mpr (eq_of_getV_setV_ne (s := s.rand.2) hne)
  | addReg | subReg | shr | subn | shl =>
    cases h
    simpa [writesReg] using eq_or_eq_of_getV_writeResultFlag_ne hne
  | drw =>
    cases h
    exact beq_iff_eq.mpr (eq_of_getV_setV_ne (s := { s with disp := _ }) hne)
  | ldVxK x =>
    obtain ⟨k, _, rfl⟩ | ⟨_, rfl⟩ := exec_ldVxK_inv h
    · exact beq_iff_eq.mpr (eq_of_getV_setV_ne hne)
    · exact absurd rfl hne
  | addI x =>
    obtain ⟨hq, rfl⟩ | ⟨_, rfl⟩ := exec_addI_inv h
    · have hr : r = 15 := eq_of_getV_setV_ne (s := s.setI _) hne
      simp [writesReg, hq, hr]
    · exact absurd rfl hne
  | ldVxMem x =>
    cases h
    by_contra hr
    have hmem : r ∉ regsUpTo x := by simpa [writesReg] using hr
    exact hne (by rw [State.getV_loadRegs, if_neg hmem])
  | _ => simp [piecesWritten] at hw

/-! ### PC -/

theorem skipIf_pc_of_ne {s : State} {c : Bool} (h : (s.skipIf c).pc ≠ s.pc) : (s.skipIf c).pc = s.pc + 2 := by
  cases c with
  | true => rfl
  | false => exact absurd rfl h

/-- Settles O20: an instruction with PC in its frame is a jump, CALL, RET, a skip or FX0A. -/
theorem pcMovesOnlyByControlFlow : Obligations.PcMovesOnlyByControlFlow := by
  intro i s t h hne
  by_cases hw : Piece.pc ∈ piecesWritten i
  case neg => exact absurd (exec_frame h .pc hw) hne
  cases i with
  | jp nnn | call nnn | jpV0 nnn => exact .inl ⟨nnn, by simp⟩
  | ret => exact .inr (.inl rfl)
  | seImm x kk | sneImm x kk =>
    cases h
    exact .inr (.inr (.inl ⟨skipIf_pc_of_ne hne, x, x, kk, by simp⟩))
  | seReg x y | sneReg x y =>
    cases h
    exact .inr (.inr (.inl ⟨skipIf_pc_of_ne hne, x, y, 0, by simp⟩))
  | skp x | sknp x =>
    cases h
    exact .inr (.inr (.inl ⟨skipIf_pc_of_ne hne, x, x, 0, by simp⟩))
  | ldVxK x =>
    obtain ⟨k, _, rfl⟩ | ⟨_, rfl⟩ := exec_ldVxK_inv h
    · exact absurd rfl hne
    · exact .inr (.inr (.inr ⟨rfl, x, rfl⟩))
  | _ => simp [piecesWritten] at hw

end Sys2Proof.Machine
end

section
/-! PROOFS. What one step can do, and the statements of 40_cycle.md and 60_exceptions.md about ticks and faults. -/

namespace Sys2Proof.Machine

/-! ### Frames of a tick's parts -/

theorem OnlyChanges.dropCall (s : State) : OnlyChanges [.calls] s s.dropCall := by
  intro p hp; cases p <;> simp_all [SamePiece, State.getV, State.stackEntry, State.readByte]

theorem OnlyChanges.latchKeys (s : State) : OnlyChanges [.keysSeen] s s.latchKeys := by
  intro p hp; cases p <;> simp_all [SamePiece, State.getV, State.stackEntry, State.readByte]

theorem OnlyChanges.executing (s : State) : OnlyChanges [.calls, .pc] s s.executing :=
  (OnlyChanges.dropCall s).append (OnlyChanges.setPc s.dropCall _)

/-- The end of a tick that raised no fault latches the keys (R98). -/
theorem State.endTick_of_fault_none {s : State} (h : s.fault = none) : s.endTick = s.latchKeys := by
  simp [State.endTick, h]

/-- The end of a tick that raised a fault does nothing (R215). -/
theorem State.endTick_of_fault_some {s : State} {f : FaultRecord} (h : s.fault = some f) : s.endTick = s := by
  simp [State.endTick, h]

theorem OnlyChanges.endTick (s : State) : OnlyChanges [.keysSeen] s s.endTick := by
  cases h : s.fault with
  | none => rw [State.endTick_of_fault_none h]; exact OnlyChanges.latchKeys s
  | some f => rw [State.endTick_of_fault_some h]; exact OnlyChanges.refl _ s

@[simp] theorem State.endTick_fault (s : State) : s.endTick.fault = s.fault :=
  OnlyChanges.endTick s .fault (by simp)

/-! ### One step -/

/-- The executing state of an engine that can fetch: no fault, and PC advanced without a wrap (R94). -/
theorem CanFetch.executing {s : State} (h : CanFetch s) :
    s.executing.fault = none ∧ s.executing.pc.toNat = s.pc.toNat + 2 ∧ s.executing.pc.toNat ≤ 0x1000 := by
  obtain ⟨_, hfault, hpc⟩ := h
  have hadv := State.executing_pc hpc
  exact ⟨hfault, hadv, by omega⟩

/-- A step at an instruction executes it with PC advanced, and ends the tick. -/
theorem step_instr {s u : State} {i : Instr} (hs : CanFetch s) (hd : decode (s.readWord s.pc) = .variant i)
    (hx : exec i s.executing = .next u) : step s = .next u.endTick := by
  rw [step_fetched hs, hd, execDecoded, hx, endOutcome]

/-- A step at an Unassigned word advances PC and latches the keys (R97). -/
theorem step_unassigned {s : State} {w : Word} (hs : CanFetch s) (hd : decode (s.readWord s.pc) = .unassigned w) :
    step s = .next s.executing.latchKeys := by
  obtain ⟨hfault, _⟩ := hs.executing
  rw [step_fetched hs, hd, execDecoded, endOutcome, State.endTick_of_fault_none hfault]

/-- A step past the fetch bound takes the fault FetchOutOfBounds (R93). -/
theorem step_outOfBounds {s : State} (hcall : s.nextCall = .tick) (hfault : s.fault = none)
    (hpc : 0xFFF < s.pc.toNat + 1) : step s = .next (s.dropCall.takeFault .fetchOutOfBounds s.pc) := by
  rw [step_tick hcall]
  exact tick_outOfBounds (s := s.dropCall) hfault (State.fetch_none.mpr hpc)

/-- A step that is a tick on a faulted engine has no next state (R91). -/
theorem step_halted {s : State} {f : FaultRecord} (hcall : s.nextCall = .tick) (hfault : s.fault = some f) :
    step s = .fault (.halted f.kind f.pc) := by
  rw [step_tick hcall]
  exact tick_faulted (s := s.dropCall) hfault

/-- The seven ways a step answers a next state: the three of a tick, and the host's other calls. -/
inductive Stepped (s : State) : State → Prop
  | outOfBounds (hcall : s.nextCall = .tick) (hfault : s.fault = none) (hpc : 0xFFF < s.pc.toNat + 1) :
      Stepped s (s.dropCall.takeFault .fetchOutOfBounds s.pc)
  | unassigned {w : Word} (hs : CanFetch s) (hd : decode (s.readWord s.pc) = .unassigned w) :
      Stepped s s.executing.latchKeys
  | instr {i : Instr} {u : State} (hs : CanFetch s) (hd : decode (s.readWord s.pc) = .variant i)
      (hx : exec i s.executing = .next u) : Stepped s u.endTick
  | decrementTimers (hcall : s.nextCall = .decrementTimers) : Stepped s s.dropCall.decrementTimers
  | setKeys {k : Keys} (hcall : s.nextCall = .setKeys k) : Stepped s (s.dropCall.setKeys k)
  | loadProgram {bytes : List Byte} (hcall : s.nextCall = .loadProgram bytes) :
      Stepped s (s.dropCall.loadProgram bytes).2
  | reset (hcall : s.nextCall = .reset) : Stepped s s.dropCall.resetEngine

/-- A step is one of the seven, or a tick on a faulted engine. -/
theorem step_cases (s : State) :
    (∃ t, step s = .next t ∧ Stepped s t) ∨
    (s.nextCall = .tick ∧ ∃ f, s.fault = some f ∧ step s = .fault (.halted f.kind f.pc)) := by
  cases hcall : s.nextCall with
  | decrementTimers => exact .inl ⟨_, by rw [step_eq, hcall]; rfl, .decrementTimers hcall⟩
  | setKeys k => exact .inl ⟨_, by rw [step_eq, hcall]; rfl, .setKeys hcall⟩
  | loadProgram bytes => exact .inl ⟨_, by rw [step_eq, hcall]; rfl, .loadProgram hcall⟩
  | reset => exact .inl ⟨_, by rw [step_eq, hcall]; rfl, .reset hcall⟩
  | tick =>
    cases hfault : s.fault with
    | some f => exact .inr ⟨rfl, f, rfl, step_halted hcall hfault⟩
    | none =>
      by_cases hpc : s.pc.toNat + 1 ≤ 0xFFF
      · have hs : CanFetch s := ⟨hcall, hfault, hpc⟩
        cases hd : decode (s.readWord s.pc) with
        | unassigned w => exact .inl ⟨_, step_unassigned hs hd, .unassigned hs hd⟩
        | variant i =>
          obtain ⟨u, hx⟩ := exec_next i s.executing
          exact .inl ⟨_, step_instr hs hd hx, .instr hs hd hx⟩
      · have hpc' : 0xFFF < s.pc.toNat + 1 := by omega
        exact .inl ⟨_, step_outOfBounds hcall hfault hpc', .outOfBounds hcall hfault hpc'⟩

theorem stepped_of_step {s t : State} (h : step s = .next t) : Stepped s t := by
  obtain ⟨u, hu, hst⟩ | ⟨_, f, _, hf⟩ := step_cases s
  · cases hu.symm.trans h; exact hst
  · cases hf.symm.trans h

/-- Settles O15: a step is a next state, or a tick on a faulted engine. -/
theorem stepStopsOnlyOnAFaultedEngine : Obligations.StepStopsOnlyOnAFaultedEngine := by
  intro s
  obtain ⟨t, ht, _⟩ | hhalt := step_cases s
  · exact .inl ⟨t, ht⟩
  · exact .inr hhalt

/-- Settles O13: such a tick is halted with what FAULT holds. -/
theorem faultedEngineHasNoTick : Obligations.FaultedEngineHasNoTick :=
  fun _ _ hfault hcall => step_halted hcall hfault

/-! ### The tick cycle (40_cycle.md) -/

/-- Settles O7: the two bytes at PC are the word that the step fetches and decodes. -/
theorem stepRunsTheDecodedInstruction : Obligations.StepRunsTheDecodedInstruction := by
  intro s i hs hbytes _
  have hd : decode (s.readWord s.pc) = .variant i := by
    rw [decodeBytes_cons, ← State.readWord_eq] at hbytes
    cases hdec : decode (s.readWord s.pc) with
    | variant j => rw [hdec] at hbytes; cases hbytes; rfl
    | unassigned w => rw [hdec] at hbytes; cases hbytes
  obtain ⟨_, hpc, _⟩ := hs.executing
  refine ⟨by rw [step_fetched hs, hd, execDecoded], hpc, rfl, ?_⟩
  exact (OnlyChanges.executing s).mono (by simp)

/-- Settles O8: an Unassigned word leaves the executing state with the keys latched. -/
theorem unassignedWordOnlyAdvances : Obligations.UnassignedWordOnlyAdvances := by
  intro s w hs hd
  obtain ⟨_, hpc, _⟩ := hs.executing
  refine ⟨_, step_unassigned hs hd, ?_, hpc, rfl, rfl⟩
  exact ((OnlyChanges.executing s).append (OnlyChanges.latchKeys _)).mono (by simp)

/-- Settles O9: no instruction writes KEYS or KEYS_SEEN, so the end of the tick decides. -/
theorem tickLatchesKeysUnlessItFaults : Obligations.TickLatchesKeysUnlessItFaults := by
  intro s t hcall hfault h
  cases stepped_of_step h with
  | outOfBounds => exact ⟨nofun, fun _ => rfl⟩
  | unassigned hs hd => exact ⟨fun _ => rfl, fun hne => absurd hfault hne⟩
  | @instr i u hs hd hx =>
    obtain ⟨hkeys, hseen, _⟩ := host_pieces_not_written i
    have hk : u.keys = s.keys := exec_frame hx .keys hkeys
    have hse : u.keysSeen = s.keysSeen := exec_frame hx .keysSeen hseen
    cases hu : u.fault with
    | none => rw [State.endTick_of_fault_none hu]; exact ⟨fun _ => hk, fun hne => absurd hu hne⟩
    | some f => rw [State.endTick_of_fault_some hu]; exact ⟨fun hn => (nomatch hu.symm.trans hn), fun _ => hse⟩
  | decrementTimers hc | setKeys hc | loadProgram hc | reset hc => cases hcall.symm.trans hc

/-! ### Faults (60_exceptions.md) -/

/-- Settles O10: the step past the bound only takes the call and the fault. -/
theorem fetchPastTheEndFaults : Obligations.FetchPastTheEndFaults := by
  intro s hcall hfault hpc
  refine ⟨_, step_outOfBounds hcall hfault hpc, ?_, rfl, rfl⟩
  exact ((OnlyChanges.dropCall s).append (OnlyChanges.takeFault _ _ _)).mono (by simp)

/-- CALL on a full stack takes StackOverflow at its own address, and nothing else (R110, R215). -/
theorem exec_call_full {s : State} (nnn : Addr) (h : s.sp.val = 16) :
    exec (.call nnn) s = .next (s.takeFault .stackOverflow s.instrAddr) := by
  obtain ⟨t, ht, _⟩ | ⟨_, hx⟩ := execCall_cases nnn s
  · rw [State.push_none.mpr h] at ht; cases ht
  · exact hx

/-- RET on an empty stack takes StackUnderflow at its own address, and nothing else (R111, R215). -/
theorem exec_ret_empty {s : State} (h : s.sp.val = 0) :
    exec .ret s = .next (s.takeFault .stackUnderflow s.instrAddr) := by
  obtain ⟨w, t, ht, _⟩ | ⟨_, hx⟩ := execRet_cases s
  · rw [State.pop_none.mpr h] at ht; cases ht
  · exact hx

/-- The entry of a fault taken by the instruction at PC: its address is recorded, PC stays advanced (R215). -/
theorem step_takes_fault {s : State} {i : Instr} {k : FaultKind} (hs : CanFetch s)
    (hd : decode (s.readWord s.pc) = .variant i)
    (hx : exec i s.executing = .next (s.executing.takeFault k s.executing.instrAddr)) :
    ∃ t, step s = .next t ∧ OnlyChanges [.fault, .pc, .calls] s t ∧
      t.fault = some ⟨k, s.pc⟩ ∧ t.pc.toNat = s.pc.toNat + 2 := by
  have hstep := step_instr hs hd hx
  rw [State.endTick_of_fault_some (State.takeFault_fault _ _ _)] at hstep
  obtain ⟨_, hpc, _⟩ := hs.executing
  refine ⟨_, hstep, ?_, ?_, hpc⟩
  · exact ((OnlyChanges.executing s).append (OnlyChanges.takeFault _ _ _)).mono (by simp)
  · rw [State.takeFault_fault, State.executing_instrAddr]

/-- Settles O11: CALL at SP = 16 and RET at SP = 0 are the two instructions that take a fault. -/
theorem stackFaultEntry : Obligations.StackFaultEntry := by
  intro s hs
  constructor
  · intro nnn hd hsp
    exact step_takes_fault hs hd (exec_call_full nnn hsp)
  · intro hd hsp
    exact step_takes_fault hs hd (exec_ret_empty hsp)

/-- An instruction that raises a fault is CALL on a full stack or RET on an empty one, and records its own address. -/
theorem exec_raises {i : Instr} {s t : State} {f : FaultRecord} (hx : exec i s = .next t) (hs : s.fault = none)
    (ht : t.fault = some f) :
    (∃ nnn, i = .call nnn ∧ s.sp.val = 16 ∧ f = ⟨.stackOverflow, s.instrAddr⟩) ∨
    (i = .ret ∧ s.sp.val = 0 ∧ f = ⟨.stackUnderflow, s.instrAddr⟩) := by
  by_cases hw : Piece.fault ∈ piecesWritten i
  case neg =>
    have hsame : t.fault = s.fault := exec_frame hx .fault hw
    rw [hsame, hs] at ht; cases ht
  cases i with
  | call nnn =>
    obtain ⟨u, hu, rfl⟩ | ⟨hfull, rfl⟩ := exec_call_inv hx
    · obtain ⟨_, rfl⟩ := State.push_some hu
      cases hs.symm.trans ht
    · exact .inl ⟨nnn, rfl, hfull, (Option.some.inj ht).symm⟩
  | ret =>
    obtain ⟨w, u, hu, rfl⟩ | ⟨hempty, rfl⟩ := exec_ret_inv hx
    · obtain ⟨_, _, rfl⟩ := State.pop_some hu
      cases hs.symm.trans ht
    · exact .inr ⟨rfl, hempty, (Option.some.inj ht).symm⟩
  | _ => simp [piecesWritten] at hw

/-- Settles O12: of the seven ways to step, only fetching past the end and executing CALL or RET can set FAULT. -/
theorem onlyThreeEventsRaiseFaults : Obligations.OnlyThreeEventsRaiseFaults := by
  intro s t f hs h ht
  cases stepped_of_step h with
  | outOfBounds hcall _ hpc =>
    cases ht
    exact ⟨hcall, rfl, .inl ⟨rfl, hpc⟩⟩
  | instr hcan hd hx =>
    obtain ⟨hcall, _, hpc⟩ := hcan
    rw [State.endTick_fault] at ht
    obtain ⟨nnn, rfl, hsp, rfl⟩ | ⟨rfl, hsp, rfl⟩ := exec_raises hx hs ht
    · exact ⟨hcall, s.executing_instrAddr, .inr (.inl ⟨rfl, hpc, hsp, nnn, hd⟩)⟩
    · exact ⟨hcall, s.executing_instrAddr, .inr (.inr ⟨rfl, hpc, hsp, hd⟩)⟩
  | @loadProgram bytes =>
    obtain ⟨_, hload⟩ | ⟨_, hload⟩ := s.dropCall.loadProgram_cases bytes <;>
      rw [hload] at ht <;> cases hs.symm.trans ht
  | reset => cases ht
  | unassigned | decrementTimers | setKeys => cases hs.symm.trans ht

end Sys2Proof.Machine
end

section
/-! PROOFS. Invariants and whole-machine rules: the engine's invariant, the lasting fault, the stale stack entries, reset. -/

namespace Sys2Proof.Machine

/-! ### The invariant (10_state.md §3, §4, §6) -/

/-- The constructed engine lists no memory, stands at 0 and has a zero stack. -/
theorem construct_inv (c : Config) : (State.construct c).Inv := by
  refine ⟨⟨List.Pairwise.nil, by simp [State.construct]⟩, by simp [State.construct], fun j => ?_⟩
  simp [State.stackEntry, State.construct]

/-- Settles O17: State.reset is a constructed engine. -/
theorem constructionMeetsTheInvariant : Obligations.ConstructionMeetsTheInvariant :=
  ⟨construct_inv, construct_inv defaultConfig⟩

/-- Execution keeps memory's canonical form: only FX33 and FX55 store, at addresses inside memory. -/
theorem exec_wf {i : Instr} {s t : State} (hx : exec i s = .next t) (hm : Memory.wf s.cfg.font s.mem) :
    Memory.wf t.cfg.font t.mem := by
  cases i with
  | ldB => cases hx; exact State.wf_writeByte _ _ _ (State.wf_writeByte _ _ _ (State.wf_writeByte s _ _ hm))
  | ldMemVx x =>
    cases hx
    have hconfig : (s.storeRegs (regsUpTo x)).cfg = s.cfg := OnlyChanges.storeRegs s _ .config (by simp)
    rw [hconfig]
    exact State.wf_storeRegs s _ hm
  | ldVxMem x =>
    cases hx
    obtain ⟨v, hv⟩ := s.loadRegs_eq (regsUpTo x)
    rw [hv]
    exact hm
  | seImm | sneImm | seReg | sneReg | skp | sknp => cases hx; rw [State.skipIf_eq]; exact hm
  | call nnn =>
    obtain ⟨u, hu, rfl⟩ | ⟨_, rfl⟩ := exec_call_inv hx
    · obtain ⟨_, rfl⟩ := State.push_some hu
      exact hm
    · exact hm
  | ret =>
    obtain ⟨w, u, hu, rfl⟩ | ⟨_, rfl⟩ := exec_ret_inv hx
    · obtain ⟨_, _, rfl⟩ := State.pop_some hu
      exact hm
    · exact hm
  | addI => obtain ⟨_, rfl⟩ | ⟨_, rfl⟩ := exec_addI_inv hx <;> exact hm
  | ldVxK => obtain ⟨_, _, rfl⟩ | ⟨_, rfl⟩ := exec_ldVxK_inv hx <;> exact hm
  | _ => cases hx; exact hm

/-- JP V0's target is the exact sum: it stays below 0x10FF, so it never wraps (R104, D19). -/
theorem jpV0_target_toNat (nnn : Addr) (b : Byte) : (zext16 nnn + b.setWidth 16).toNat = nnn.toNat + b.toNat := by
  have hn := nnn.isLt
  have hb := b.isLt
  rw [BitVec.toNat_add, zext16_toNat, BitVec.toNat_setWidth_of_le (by decide)]
  omega

/-- Where execution leaves PC, from a PC that a fetch has advanced (R27): at most 0xFFF + 0xFF, the farthest JP V0. -/
theorem exec_pc_le {i : Instr} {s t : State} (hx : exec i s = .next t) (hlo : 2 ≤ s.pc.toNat)
    (hhi : s.pc.toNat ≤ 0x1000) (hstack : ∀ j : Fin 16, (s.stackEntry j).toNat ≤ 0x1000) : t.pc.toNat ≤ 0x10FE := by
  by_cases hne : t.pc = s.pc
  · rw [hne]; omega
  obtain ⟨nnn, rfl | rfl | rfl⟩ | rfl | ⟨hpc, _⟩ | ⟨hpc, _⟩ := pcMovesOnlyByControlFlow i s t hx hne
  · cases hx
    have := nnn.isLt
    rw [State.setPc_pc, zext16_toNat]; omega
  · obtain ⟨u, _, rfl⟩ | ⟨_, rfl⟩ := exec_call_inv hx
    · have := nnn.isLt
      rw [State.setPc_pc, zext16_toNat]; omega
    · exact absurd rfl hne
  · cases hx
    have := nnn.isLt
    have := (s.getV 0).isLt
    rw [State.setPc_pc, jpV0_target_toNat]; omega
  · obtain ⟨w, u, hu, rfl⟩ | ⟨_, rfl⟩ := exec_ret_inv hx
    · obtain ⟨hsp, rfl, _⟩ := State.pop_some hu
      exact Nat.le_trans (hstack ⟨s.sp.val - 1, by omega⟩) (by decide)
    · exact absurd rfl hne
  · rw [hpc, BitVec.toNat_add, show (2 : Word).toNat = 2 from rfl]; omega
  · rw [hpc, BitVec.toNat_sub, show (2 : Word).toNat = 2 from rfl]; omega

/-- Execution keeps the stack's bound: CALL pushes the advanced PC, and no other instruction writes an entry (R102). -/
theorem exec_stack_le {i : Instr} {s t : State} (hx : exec i s = .next t) (hpc : s.pc.toNat ≤ 0x1000)
    (hstack : ∀ j : Fin 16, (s.stackEntry j).toNat ≤ 0x1000) (j : Fin 16) : (t.stackEntry j).toNat ≤ 0x1000 := by
  by_cases hw : Piece.stack ∈ piecesWritten i
  case neg => rw [exec_frame hx .stack hw j]; exact hstack j
  cases i with
  | call nnn =>
    obtain ⟨u, hu, rfl⟩ | ⟨_, rfl⟩ := exec_call_inv hx
    · obtain ⟨_, rfl⟩ := State.push_some hu
      simp only [State.stackEntry, State.setPc_stack, Vector.getElem_set]
      split
      · exact hpc
      · exact hstack j
    · exact hstack j
  | _ => simp [piecesWritten] at hw

/-- The end of a tick keeps the invariant, which does not speak of KEYS_SEEN. -/
theorem State.Inv.endTick {s : State} (h : s.Inv) : s.endTick.Inv := by
  rw [State.endTick_eq]; exact h

/-- load_program keeps the invariant: an image of at most 3584 bytes ends inside memory (R253). -/
theorem State.Inv.loadProgram {s : State} (h : s.Inv) (bytes : List Byte) : (s.loadProgram bytes).2.Inv := by
  obtain ⟨hmem, hpc, hstack⟩ := h
  obtain ⟨hlen, hload⟩ | ⟨_, hload⟩ := s.loadProgram_cases bytes <;> rw [hload]
  · exact ⟨Memory.wf_writeBytes _ bytes _ _ (by omega) hmem, show (0x200#16).toNat ≤ 0x10FE by decide, hstack⟩
  · exact ⟨hmem, hpc, hstack⟩

/-- Settles O16: an instruction runs with PC between 2 and 0x1000; the host's other calls keep each part by themselves. -/
theorem stepKeepsTheInvariant : Obligations.StepKeepsTheInvariant := by
  intro s t hinv h
  obtain ⟨hmem, hpc, hstack⟩ := hinv
  cases stepped_of_step h with
  | unassigned hs =>
    obtain ⟨_, _, hhi⟩ := hs.executing
    exact ⟨hmem, Nat.le_trans hhi (by decide), hstack⟩
  | instr hs hd hx =>
    obtain ⟨_, hadv, hhi⟩ := hs.executing
    exact State.Inv.endTick
      ⟨exec_wf hx hmem, exec_pc_le hx (by omega) hhi hstack, exec_stack_le hx hhi hstack⟩
  | loadProgram => exact State.Inv.loadProgram (s := s.dropCall) ⟨hmem, hpc, hstack⟩ _
  | reset => exact construct_inv s.cfg
  | outOfBounds | decrementTimers | setKeys => exact ⟨hmem, hpc, hstack⟩

end Sys2Proof.Machine
end

section
/-! PROOFS. Whole-machine rules: the host's calls, the lasting fault, the stale stack entries, construction and reset. -/

namespace Sys2Proof.Machine

/-! ### The host's calls (60_exceptions.md R226, R227) -/

theorem OnlyChanges.decrementTimers (s : State) :
    OnlyChanges [.delayTimer, .soundTimer] s s.decrementTimers := by
  intro p hp; cases p <;> simp_all [SamePiece, State.getV, State.stackEntry, State.readByte]

theorem OnlyChanges.setKeys (s : State) (k : Keys) : OnlyChanges [.keys] s (s.setKeys k) := by
  intro p hp; cases p <;> simp_all [SamePiece, State.getV, State.stackEntry, State.readByte]

theorem OnlyChanges.loadProgram (s : State) (bytes : List Byte) :
    OnlyChanges [.memory, .pc] s (s.loadProgram bytes).2 := by
  obtain ⟨_, hload⟩ | ⟨_, hload⟩ := s.loadProgram_cases bytes <;> rw [hload]
  · have hmem := OnlyChanges.withMem s (Memory.writeBytes s.cfg.font s.mem 0x200 bytes)
    exact hmem.append (OnlyChanges.setPc _ 0x200#16)
  · exact OnlyChanges.refl _ s

/-- A host call other than the implied tick stands in the list. -/
theorem State.nextCall_mem {s : State} (h : s.nextCall ≠ .tick) : s.nextCall ∈ s.calls := by
  unfold State.nextCall at *
  cases hc : s.calls with
  | nil => simp [hc] at h
  | cons op rest => simp

/-- A step performs the host's next call, by name. -/
theorem step_call {s : State} {op : HostOp} (h : s.nextCall = op) : step s = perform op s.dropCall := by
  rw [step_eq, h]

/-- A step performs the first call of the list. -/
theorem step_call_cons {s : State} {op : HostOp} {rest : List HostOp} (h : s.calls = op :: rest) :
    step s = perform op s.dropCall :=
  step_call (by simp [State.nextCall, h])

theorem State.dropCall_calls_cons {s : State} {op : HostOp} {rest : List HostOp} (h : s.calls = op :: rest) :
    s.dropCall.calls = rest := by simp [h]

/-- Settles O21: an instruction writes none of the three pieces, and each host call only its own. -/
theorem stepTakesOneCallAndKeepsTheConfiguration : Obligations.StepTakesOneCallAndKeepsTheConfiguration := by
  intro s t h
  cases stepped_of_step h with
  | @instr i u _ _ hx =>
    obtain ⟨hkeys, _, hconfig, hcalls⟩ := host_pieces_not_written i
    have hframe := exec_frame hx
    have hend := OnlyChanges.endTick u
    refine ⟨(hend .calls (by simp)).trans (hframe .calls hcalls),
      (hend .config (by simp)).trans (hframe .config hconfig), fun hne => absurd ?_ hne⟩
    exact (hend .keys (by simp)).trans (hframe .keys hkeys)
  | setKeys hcall => exact ⟨rfl, rfl, fun _ => .inr hcall⟩
  | @loadProgram bytes =>
    have hframe := OnlyChanges.loadProgram s.dropCall bytes
    exact ⟨hframe .calls (by simp), hframe .config (by simp), fun hne => absurd (hframe .keys (by simp)) hne⟩
  | reset hcall => exact ⟨rfl, rfl, fun _ => .inl hcall⟩
  | outOfBounds | unassigned | decrementTimers => exact ⟨rfl, rfl, fun hne => absurd rfl hne⟩

/-! ### A fault lasts (60_exceptions.md §2) -/

/-- One step of a faulted engine that is not reset: only what the host's other calls write can differ. -/
theorem step_faulted {s t : State} {f : FaultRecord} (hfault : s.fault = some f) (hreset : .reset ∉ s.calls)
    (h : step s = .next t) :
    t.fault = some f ∧ .reset ∉ t.calls ∧
      OnlyChanges [.pc, .memory, .delayTimer, .soundTimer, .keys, .calls] s t := by
  have hcalls : .reset ∉ t.calls := by
    rw [(stepTakesOneCallAndKeepsTheConfiguration s t h).1]
    exact fun hm => hreset (List.mem_of_mem_tail hm)
  have hdrop := OnlyChanges.dropCall s
  have hframe : OnlyChanges [.pc, .memory, .delayTimer, .soundTimer, .keys, .calls] s t := by
    cases stepped_of_step h with
    | outOfBounds _ hnone => cases hnone.symm.trans hfault
    | unassigned hs | instr hs =>
      obtain ⟨hnone, _⟩ := hs.executing
      cases hnone.symm.trans hfault
    | decrementTimers => exact (hdrop.append (OnlyChanges.decrementTimers _)).mono (by simp)
    | setKeys => exact (hdrop.append (OnlyChanges.setKeys _ _)).mono (by simp)
    | loadProgram => exact (hdrop.append (OnlyChanges.loadProgram _ _)).mono (by simp)
    | reset hcall => exact absurd (hcall ▸ State.nextCall_mem (by rw [hcall]; exact nofun)) hreset
  exact ⟨(hframe .fault (by simp)).trans hfault, hcalls, hframe⟩

/-- A run of k + 1 steps that ends in a next state is a step to a next state and a run of k from there. -/
theorem run_succ_next {k : Nat} {s t : State} (h : Host.Core.run Sys2Proof.core (k + 1) s = .next t) :
    ∃ u, step s = .next u ∧ Host.Core.run Sys2Proof.core k u = .next t := by
  obtain ⟨u, hu, _⟩ | ⟨_, f, _, hf⟩ := step_cases s
  · exact ⟨u, hu, (run_next k hu).symm.trans h⟩
  · cases (run_fault k hf).symm.trans h

/-- Settles O14: by induction on the number of steps, each of which keeps the fault and the frame. -/
theorem faultLastsUntilReset : Obligations.FaultLastsUntilReset := by
  intro n
  induction n with
  | zero =>
    intro s t f hfault _ h
    cases h
    exact ⟨hfault, OnlyChanges.refl _ s⟩
  | succ n ih =>
    intro s t f hfault hreset h
    obtain ⟨u, hu, hrun⟩ := run_succ_next h
    obtain ⟨hfault', hreset', hframe⟩ := step_faulted hfault hreset hu
    obtain ⟨hlast, hrest⟩ := ih u t f hfault' hreset' hrun
    exact ⟨hlast, hframe.trans hrest⟩

/-! ### Stale stack entries (10_state.md §4) -/

/-- A stack that agrees with the state's own at every index below SP. -/
def AgreesBelowSp (k : Vector Word 16) (s : State) : Prop :=
  ∀ j : Fin 16, j.val < s.sp.val → k[j.val] = s.stack[j.val]

/-- Storing registers reads no stack entry. -/
theorem storeRegs_withStack (s : State) (k : Vector Word 16) (ks : List Reg) :
    ({ s with stack := k } : State).storeRegs ks = { s.storeRegs ks with stack := k } := by
  unfold State.storeRegs
  induction ks generalizing s with
  | nil => rfl
  | cons r ks ih => exact ih (s.writeByte (s.ea r.val) (s.getV r))

/-- Loading registers reads no stack entry. -/
theorem loadRegs_withStack (s : State) (k : Vector Word 16) (ks : List Reg) :
    ({ s with stack := k } : State).loadRegs ks = { s.loadRegs ks with stack := k } := by
  unfold State.loadRegs
  induction ks generalizing s with
  | nil => rfl
  | cons r ks ih => exact ih (s.setV r (s.readByte (s.ea r.val)))

/-- Loading a program reads no stack entry. -/
theorem loadProgram_withStack (s : State) (k : Vector Word 16) (bytes : List Byte) :
    (({ s with stack := k } : State).loadProgram bytes).2 = { (s.loadProgram bytes).2 with stack := k } := by
  unfold State.loadProgram
  split <;> rfl

/-- A conditional skip reads no stack entry. -/
theorem skipIf_withStack (s : State) (k : Vector Word 16) (c : Bool) :
    ({ s with stack := k } : State).skipIf c = { s.skipIf c with stack := k } := by
  cases c <;> rfl

/-- CALL writes the entry at SP in either stack, and reads none. -/
theorem exec_call_withStack {s t : State} {k : Vector Word 16} (nnn : Addr) (hk : AgreesBelowSp k s)
    (hx : exec (.call nnn) s = .next t) :
    ∃ k', exec (.call nnn) { s with stack := k } = .next { t with stack := k' } ∧ AgreesBelowSp k' t := by
  obtain ⟨u, hu, rfl⟩ | ⟨hfull, rfl⟩ := exec_call_inv hx
  · obtain ⟨hsp, rfl⟩ := State.push_some hu
    refine ⟨k.set s.sp.val s.pc, by simp [exec, execCall, State.push, hsp, State.setPc], fun j hj => ?_⟩
    simp only [State.setPc_stack, Vector.getElem_set]
    split
    · rfl
    · simp only [State.setPc_sp] at hj
      exact hk j (by omega)
  · exact ⟨k, exec_call_full (s := { s with stack := k }) nnn hfull, hk⟩

/-- RET reads the entry below SP, which is not stale. -/
theorem exec_ret_withStack {s t : State} {k : Vector Word 16} (hk : AgreesBelowSp k s) (hx : exec .ret s = .next t) :
    ∃ k', exec .ret { s with stack := k } = .next { t with stack := k' } ∧ AgreesBelowSp k' t := by
  obtain ⟨w, u, hu, rfl⟩ | ⟨hempty, rfl⟩ := exec_ret_inv hx
  · obtain ⟨hsp, rfl, rfl⟩ := State.pop_some hu
    have htop : k[s.sp.val - 1] = s.stack[s.sp.val - 1] := hk ⟨s.sp.val - 1, by omega⟩ (by simp only; omega)
    refine ⟨k, by simp [exec, execRet, State.pop, hsp, State.setPc, htop], fun j hj => ?_⟩
    simp only [State.setPc_sp] at hj
    exact hk j (by omega)
  · exact ⟨k, exec_ret_empty (s := { s with stack := k }) hempty, hk⟩

/-- Execution does not depend on the stale entries, and leaves a stack that agrees below the new SP. -/
theorem exec_withStack {i : Instr} {s t : State} {k : Vector Word 16} (hk : AgreesBelowSp k s)
    (hx : exec i s = .next t) :
    ∃ k', exec i { s with stack := k } = .next { t with stack := k' } ∧ AgreesBelowSp k' t := by
  cases i with
  | call nnn => exact exec_call_withStack nnn hk hx
  | ret => exact exec_ret_withStack hk hx
  | seImm | sneImm | seReg | sneReg | skp | sknp =>
    cases hx
    refine ⟨k, congrArg _ (skipIf_withStack s k _), ?_⟩
    rw [State.skipIf_eq]
    exact hk
  | ldMemVx x =>
    cases hx
    refine ⟨k, congrArg _ (storeRegs_withStack s k _), ?_⟩
    obtain ⟨m, hm⟩ := s.storeRegs_eq (regsUpTo x)
    rw [hm]
    exact hk
  | ldVxMem x =>
    cases hx
    refine ⟨k, congrArg _ (loadRegs_withStack s k _), ?_⟩
    obtain ⟨v, hv⟩ := s.loadRegs_eq (regsUpTo x)
    rw [hv]
    exact hk
  | addI x =>
    obtain ⟨hq, rfl⟩ | ⟨hq, rfl⟩ := exec_addI_inv hx
    · exact ⟨k, if_pos hq, hk⟩
    · exact ⟨k, if_neg (by simp [hq]), hk⟩
  | ldVxK x =>
    have hpress : ({ s with stack := k } : State).firstPress = s.firstPress := rfl
    obtain ⟨d, hd, rfl⟩ | ⟨hd, rfl⟩ := exec_ldVxK_inv hx
    · exact ⟨k, by simp only [exec, execLdVxK, hpress, hd]; rfl, hk⟩
    · exact ⟨k, by simp only [exec, execLdVxK, hpress, hd]; rfl, hk⟩
  | _ => cases hx; exact ⟨k, rfl, hk⟩

/-- Settles O22: only an instruction can read or write the stack, and only reset replaces it. -/
theorem staleStackEntriesAreNeverRead : Obligations.StaleStackEntriesAreNeverRead := by
  intro s t k hk h
  cases stepped_of_step h with
  | outOfBounds hcall hfault hpc => exact ⟨k, step_outOfBounds (s := { s with stack := k }) hcall hfault hpc, hk⟩
  | unassigned hs hd => exact ⟨k, step_unassigned (s := { s with stack := k }) hs hd, hk⟩
  | @instr i u hs hd hx =>
    obtain ⟨k', hx', hk'⟩ := exec_withStack (s := s.executing) hk hx
    refine ⟨k', ?_, ?_⟩
    · rw [step_instr (s := { s with stack := k }) hs hd hx', State.endTick_eq, State.endTick_eq]
    · rw [State.endTick_eq]
      exact hk'
  | decrementTimers hcall => exact ⟨k, step_call (s := { s with stack := k }) hcall, hk⟩
  | setKeys hcall => exact ⟨k, step_call (s := { s with stack := k }) hcall, hk⟩
  | @loadProgram bytes hcall =>
    have hframe := OnlyChanges.loadProgram s.dropCall bytes
    have hsp : (s.dropCall.loadProgram bytes).2.sp = s.sp := hframe .sp (by simp)
    refine ⟨k, ?_, fun j hj => (hk j (by omega)).trans (hframe .stack (by simp) j).symm⟩
    rw [step_call (s := { s with stack := k }) hcall]
    exact congrArg _ (loadProgram_withStack s.dropCall k bytes)
  | reset hcall => exact ⟨_, step_call (s := { s with stack := k }) hcall, fun _ _ => rfl⟩

/-! ### Construction and reset (10_state.md §11) -/

/-- Settles O23: field by field from the definition of the constructed state. -/
theorem resetStateValues : Obligations.ResetStateValues := by
  refine ⟨fun c => ?_, rfl, rfl, by decide, by decide⟩
  refine ⟨fun r => ?_, rfl, rfl, fun j => ?_, rfl, rfl, rfl, fun a => rfl, Display.pixel_blank, fun k => ?_, rfl, rfl⟩
  · simp [State.getV, State.construct]
  · simp [State.stackEntry, State.construct]
  · simp [State.construct]

@[simp] theorem State.construct_cfg (c : Config) : (State.construct c).cfg = c := rfl

/-- `reset()` differs from construction in the model's own draws and calls alone. -/
theorem OnlyChanges.resetEngine (s : State) : OnlyChanges [.draws, .calls] (State.construct s.cfg) s.resetEngine := by
  intro p hp; cases p <;> simp_all [SamePiece, State.getV, State.stackEntry, State.readByte]

/-- Settles O24: the step is `resetEngine`, whatever the fault. -/
theorem resetRestoresConstruction : Obligations.ResetRestoresConstruction := by
  intro s rest h
  exact ⟨s.dropCall.resetEngine, step_call_cons h, OnlyChanges.resetEngine s.dropCall, rfl, rfl,
    State.dropCall_calls_cons h⟩

end Sys2Proof.Machine
end

section
/-! PROOFS. The statements of 41_control_flow.md: JP V0, the register skips, CALL and RET. -/

namespace Sys2Proof.Machine

/-- Settles O26: the sum of nnn and V[0] fits 16 bits. -/
theorem jpV0AddsV0Unmasked : Obligations.JpV0AddsV0Unmasked := by
  intro nnn s
  exact ⟨_, rfl, exec_frame (i := .jpV0 nnn) rfl, jpV0_target_toNat nnn (s.getV 0)⟩

/-- Settles O31: both are conditional skips; a register equals itself. -/
theorem registerSkips : Obligations.RegisterSkips := by
  intro x y s
  obtain ⟨hseFrame, hsePc⟩ := s.skipIf_spec (s.getV x == s.getV y)
  obtain ⟨hsneFrame, hsnePc⟩ := s.skipIf_spec (s.getV x != s.getV y)
  refine ⟨⟨_, rfl, hseFrame, by simpa using hsePc, ?_⟩, _, rfl, hsneFrame, by simpa using hsnePc, ?_⟩
  · rintro rfl; simpa using hsePc
  · rintro rfl; simpa using hsnePc

/-- Settles O27: push writes the entry at the old SP, and the jump only PC. -/
theorem callPushesTheReturnAddress : Obligations.CallPushesTheReturnAddress := by
  intro nnn s hsp
  obtain ⟨t, ht, hx⟩ | ⟨hfull, _⟩ := execCall_cases nnn s
  · refine ⟨_, hx, ?_, zext16_toNat nnn, ?_⟩
    · exact ((OnlyChanges.push ht).append (OnlyChanges.setPc t _)).mono (by simp)
    · obtain ⟨_, rfl⟩ := State.push_some ht
      refine ⟨rfl, fun j => ?_⟩
      simp only [State.stackEntry, State.setPc_stack, Vector.getElem_set, eq_comm]
  · have := State.push_none.mp hfull
    omega

/-- Settles O28: pop reads the entry below the old SP and writes SP alone. -/
theorem retPopsTheReturnAddress : Obligations.RetPopsTheReturnAddress := by
  intro s hsp
  obtain ⟨w, t, ht, hx⟩ | ⟨hempty, _⟩ := execRet_cases s
  · refine ⟨_, hx, ?_, ?_⟩
    · exact ((OnlyChanges.pop ht).append (OnlyChanges.setPc t w)).mono (by simp)
    · obtain ⟨_, rfl, rfl⟩ := State.pop_some ht
      exact ⟨Nat.sub_add_cancel hsp, ⟨s.sp.val - 1, by omega⟩, rfl, rfl⟩
  · have := State.pop_none.mp hempty
    omega

/-- A word is read from memory alone. -/
theorem OnlyChanges.readWord {l : List Piece} {s t : State} (h : OnlyChanges l s t) (hl : .memory ∉ l) (a : Word) :
    t.readWord a = s.readWord a := by
  unfold State.readWord
  rw [h .memory hl, h .memory hl]

/-- A step at an instruction that writes no FAULT ends with the keys latched. -/
theorem step_instr_latch {s u : State} {i : Instr} {l : List Piece} (hs : CanFetch s)
    (hd : decode (s.readWord s.pc) = .variant i) (hx : exec i s.executing = .next u)
    (hl : OnlyChanges l s.executing u) (hfault : .fault ∉ l) :
    step s = .next u.latchKeys ∧ u.fault = none := by
  obtain ⟨hnone, _⟩ := hs.executing
  have hu : u.fault = none := (hl .fault hfault).trans hnone
  exact ⟨by rw [step_instr hs hd hx, State.endTick_of_fault_none hu], hu⟩

/-- A piece that ends as it was need not stand in the frame. -/
theorem OnlyChanges.narrow {l m : List Piece} {s t : State} (h : OnlyChanges m s t)
    (hm : ∀ p ∈ m, p ∈ l ∨ SamePiece s t p) : OnlyChanges l s t := by
  intro p hp
  by_cases hpm : p ∈ m
  · exact (hm p hpm).resolve_left hp
  · exact h p hpm

/-- Settles O29: the CALL's step leaves its return address at the top, which the RET's step takes back. -/
theorem callThenRetReturns : Obligations.CallThenRetReturns := by
  intro s nnn hs hcalls hsp hnnn hcall hret
  -- the CALL, from s to u
  obtain ⟨u, hux, huframe, hupc, husp, hustack⟩ := callPushesTheReturnAddress nnn s.executing hsp
  obtain ⟨hstep1, hufault⟩ := step_instr_latch hs hcall hux huframe (by simp)
  have hframe1 : OnlyChanges [.calls, .pc, .stack, .sp, .keysSeen] s u.latchKeys :=
    (((OnlyChanges.executing s).append huframe).append (OnlyChanges.latchKeys u)).mono (by simp)
  have hucalls : u.calls = [] := (huframe .calls (by simp)).trans (congrArg List.tail hcalls)
  have hcan : CanFetch u.latchKeys := ⟨by simp [State.nextCall, hucalls], hufault, by simp; omega⟩
  have hword : decode (u.latchKeys.readWord u.latchKeys.pc) = .variant .ret := by
    have hpc : u.latchKeys.pc = zext16 nnn := BitVec.eq_of_toNat_eq (hupc.trans (zext16_toNat nnn).symm)
    rw [hpc, hframe1.readWord (by simp), hret]
  -- the RET, from u with the keys latched to w
  have hspu : 0 < u.latchKeys.executing.sp.val := Nat.lt_of_lt_of_eq (Nat.succ_pos _) husp.symm
  obtain ⟨w, hwx, hwframe, hwsp, j, hj, hwpc⟩ := retPopsTheReturnAddress u.latchKeys.executing hspu
  obtain ⟨hstep2, _⟩ := step_instr_latch hcan hword hwx hwframe (by simp)
  have hsame : w.sp.val = s.sp.val := Nat.succ.inj (hwsp.trans husp)
  have hreturn : w.pc = s.executing.pc := hwpc.trans ((hustack j).trans (if_pos (hj.trans hsame)))
  have hwcalls : w.calls = [] := (hwframe .calls (by simp)).trans (congrArg List.tail hucalls)
  have hframe2 : OnlyChanges [.calls, .pc, .stack, .sp, .keysSeen] s w.latchKeys :=
    hframe1.trans ((((OnlyChanges.executing _).append hwframe).append (OnlyChanges.latchKeys w)).mono (by simp))
  refine ⟨w.latchKeys, (run_next 1 hstep1).trans (run_next 0 hstep2), ?_, Fin.ext hsame, ?_, fun i hi => ?_⟩
  · obtain ⟨_, hadv, _⟩ := hs.executing
    rw [State.latchKeys_pc, hreturn, hadv]
  · have hsp' : SamePiece s w.latchKeys .sp := Fin.ext hsame
    have hcalls' : SamePiece s w.latchKeys .calls := hwcalls.trans hcalls.symm
    exact hframe2.narrow (by simp [hsp', hcalls'])
  · exact (hwframe .stack (by simp) i).trans ((hustack i).trans (if_neg (Nat.ne_of_lt hi)))

end Sys2Proof.Machine
end

section
/-! PROOFS. The statements of 42_register_alu.md: arithmetic, logic, shifts and the random byte. -/

namespace Sys2Proof.Machine

/-! ### The computed bytes as numbers -/

@[simp] theorem flagByte_toNat (c : Bool) : (flagByte c).toNat = if c then 1 else 0 := by
  cases c <;> rfl

@[simp] theorem sumByte_toNat (a b : Byte) : (sumByte a b).toNat = (a.toNat + b.toNat) % 256 :=
  BitVec.toNat_ofNat _ _

@[simp] theorem differenceByte_toNat (a b : Byte) : (differenceByte a b).toNat = (a.toNat + 0x100 - b.toNat) % 256 :=
  BitVec.toNat_ofNat _ _

@[simp] theorem shiftedRight_toNat (b : Byte) : (shiftedRight b).toNat = b.toNat / 2 := by
  simp [shiftedRight, Nat.shiftRight_eq_div_pow]

@[simp] theorem shiftedLeft_toNat (b : Byte) : (shiftedLeft b).toNat = b.toNat * 2 % 256 := by
  simp [shiftedLeft, Nat.shiftLeft_eq]

/-- The bit a right shift drops, as the flag's number (R128). -/
theorem flagByte_lowBit_toNat (b : Byte) : (flagByte (lowBit b)).toNat = b.toNat % 2 := by
  rw [flagByte_toNat, lowBit, BitVec.getLsbD, Nat.testBit_zero]
  rcases Nat.mod_two_eq_zero_or_one b.toNat with h | h <;> simp [h]

/-- The bit a left shift drops, as the flag's number (R130). -/
theorem flagByte_highBit_toNat (b : Byte) : (flagByte (highBit b)).toNat = b.toNat / 128 := by
  have hb := b.isLt
  rw [flagByte_toNat, highBit, BitVec.getLsbD, Nat.testBit_eq_decide_div_mod_eq]
  have hbit : b.toNat / 128 = 0 ∨ b.toNat / 128 = 1 := by omega
  rcases hbit with h | h <;> simp [h]

/-- What every instruction with a result and a flag does (R132), as numbers. -/
theorem writeResultFlag_toNat (s : State) (x r : Reg) (b : Byte) (c : Bool) :
    ((s.writeResultFlag x b c).getV r).toNat =
      if r = 15 then (flagByte c).toNat else if r = x then b.toNat else (s.getV r).toNat := by
  rw [State.getV_writeResultFlag]
  split
  · rfl
  · split <;> rfl

/-! ### The instructions -/

/-- Settles O33: one register load of the wrapped sum. -/
theorem addImmediateWrapsWithoutFlag : Obligations.AddImmediateWrapsWithoutFlag := by
  intro x kk s
  refine ⟨_, rfl, exec_frame (i := .addImm x kk) rfl, fun r => ?_⟩
  rw [State.getV_setV]
  split
  · exact sumByte_toNat _ _
  · rfl

/-- Settles O34: each is one register load of the bitwise combination. -/
theorem logicIsBitwise : Obligations.LogicIsBitwise := by
  intro x y s
  have hother (b : Byte) (r : Reg) (hr : r ≠ x) : (s.setV x b).getV r = s.getV r := by
    rw [State.getV_setV, if_neg hr]
  refine ⟨⟨_, rfl, exec_frame (i := .orReg x y) rfl, hother _, fun b => ?_⟩,
    ⟨_, rfl, exec_frame (i := .andReg x y) rfl, hother _, fun b => ?_⟩,
    ⟨_, rfl, exec_frame (i := .xorReg x y) rfl, hother _, fun b => ?_⟩⟩
  · rw [State.getV_setV_same, BitVec.getLsbD_or]
  · rw [State.getV_setV_same, BitVec.getLsbD_and]
  · rw [State.getV_setV_same, BitVec.getLsbD_xor]

/-- Settles O35: the wrapped sum and its carry. -/
theorem addSetsCarry : Obligations.AddSetsCarry := by
  intro x y s
  refine ⟨_, rfl, exec_frame (i := .addReg x y) rfl, fun r => ?_⟩
  rw [writeResultFlag_toNat]
  simp [carry]

/-- Settles O36: the wrapped difference and no borrow, in the two orders of the operands. -/
theorem subtractSetsNoBorrow : Obligations.SubtractSetsNoBorrow := by
  intro x y s
  refine ⟨⟨_, rfl, exec_frame (i := .subReg x y) rfl, fun r => ?_⟩,
    ⟨_, rfl, exec_frame (i := .subn x y) rfl, fun r => ?_⟩⟩ <;>
  · rw [writeResultFlag_toNat]
    simp [noBorrow]

/-- Settles O37: the source is `shiftSource`; its dropped bit is the flag. -/
theorem shiftsSetTheDroppedBit : Obligations.ShiftsSetTheDroppedBit := by
  intro x y s
  refine ⟨⟨_, rfl, exec_frame (i := .shr x y) rfl, fun r => ?_⟩,
    ⟨_, rfl, exec_frame (i := .shl x y) rfl, fun r => ?_⟩⟩
  · rw [writeResultFlag_toNat, flagByte_lowBit_toNat, shiftedRight_toNat]
    rfl
  · rw [writeResultFlag_toNat, flagByte_highBit_toNat, shiftedLeft_toNat]
    rfl

/-- Settles O38: one register load of the drawn byte masked by kk, in the state that has taken the draw. -/
theorem randomByteIsMasked : Obligations.RandomByteIsMasked := by
  intro x kk s
  refine ⟨_, rfl, (exec_frame (i := .rnd x kk) rfl).mono (by simp [piecesWritten]), rfl, rfl,
    fun q => State.getV_setV s.rand.2 x q _, fun b hb => ?_⟩
  rw [State.getV_setV_same, BitVec.getLsbD_and, Bool.and_eq_true] at hb
  exact hb.2

end Sys2Proof.Machine
end

section
/-! PROOFS. The statements of 43_index_memory.md: arithmetic on I, the glyph address, and the stores and loads through I. -/

namespace Sys2Proof.Machine

@[simp] theorem sumIndex_toNat (i : Word) (b : Byte) : (sumIndex i b).toNat = (i.toNat + b.toNat) % 65536 :=
  BitVec.toNat_ofNat _ _

/-- Settles O40: I is the sum with and without the switch; VF only with it. -/
theorem addToIndex : Obligations.AddToIndex := by
  intro x s
  obtain ⟨hq, hx⟩ | ⟨hq, hx⟩ := execAddI_cases x s
  · refine ⟨_, hx, exec_frame (i := .addI x) hx, sumIndex_toNat _ _, fun r => ?_⟩
    rw [State.getV_setVF]
    by_cases hr : r = 15
    · simp [hr, hq, indexOverflow]
    · rw [if_neg hr, if_neg (fun h => hr h.2)]
      rfl
  · refine ⟨_, hx, exec_frame (i := .addI x) hx, sumIndex_toNat _ _, fun r => ?_⟩
    rw [if_neg (by simp [hq])]
    rfl

theorem lowNibble_val (b : Byte) : (lowNibble b).val = b.toNat % 16 := by
  simp [lowNibble]

theorem glyphAddr_lowNibble_toNat (b : Byte) : (glyphAddr (lowNibble b)).toNat = 5 * (b.toNat % 16) := by
  rw [glyphAddr, BitVec.toNat_ofNat, lowNibble_val]
  omega

/-- Settles O41: the glyph's address is inside the font, which memory reads as where it lists nothing. -/
theorem glyphAddress : Obligations.GlyphAddress := by
  intro x s
  have haddr := glyphAddr_lowNibble_toNat (s.getV x)
  refine ⟨_, rfl, exec_frame (i := .ldF x) rfl, haddr, fun hmem => ?_⟩
  have hlt : 5 * ((s.getV x).toNat % 16) < 80 := by omega
  have hea : ((s.setI (glyphAddr (lowNibble (s.getV x)))).ea 0).toNat = 5 * ((s.getV x).toNat % 16) := by
    rw [State.ea_toNat, State.setI_i, haddr]
    omega
  refine ⟨hlt, ?_⟩
  rw [State.readByte, hea, State.setI_mem, hmem]
  exact dif_pos hlt

/-! ### Stores and loads through I -/

@[simp] theorem hundreds_toNat (b : Byte) : (hundreds b).toNat = b.toNat / 100 := by
  have := b.isLt
  rw [hundreds, BitVec.toNat_ofNat]
  omega

@[simp] theorem tens_toNat (b : Byte) : (tens b).toNat = b.toNat / 10 % 10 := by
  rw [tens, BitVec.toNat_ofNat]
  omega

@[simp] theorem ones_toNat (b : Byte) : (ones b).toNat = b.toNat % 10 := by
  rw [ones, BitVec.toNat_ofNat]
  omega

/-- Settles O42: three stores at different addresses, so no digit is overwritten. -/
theorem bcdStoresThreeDigits : Obligations.BcdStoresThreeDigits := by
  intro x s hm
  refine ⟨_, rfl, exec_frame (i := .ldB x) rfl, fun a => ?_⟩
  have hm0 := State.wf_writeByte s (s.ea 0) (hundreds (s.getV x)) hm
  have hm1 := State.wf_writeByte _ (s.ea 1) (tens (s.getV x)) hm0
  have h01 : s.ea 0 ≠ s.ea 1 := fun h => absurd (s.ea_inj 0 1 (by decide) (by decide) h) (by decide)
  have h02 : s.ea 0 ≠ s.ea 2 := fun h => absurd (s.ea_inj 0 2 (by decide) (by decide) h) (by decide)
  have h12 : s.ea 1 ≠ s.ea 2 := fun h => absurd (s.ea_inj 1 2 (by decide) (by decide) h) (by decide)
  rw [State.readByte_writeByte _ _ _ _ hm1, State.readByte_writeByte _ _ _ _ hm0, State.readByte_writeByte _ _ _ _ hm]
  by_cases h0 : a = s.ea 0
  · simp [h0, h01, h02]
  · by_cases h1 : a = s.ea 1
    · simp [h1, h01.symm, h12]
    · by_cases h2 : a = s.ea 2 <;> simp [h0, h1, h2, h02.symm, h12.symm]

/-- Settles O43: the stores of V[0] to V[x], at 16 different addresses at most. -/
theorem storeRegisters : Obligations.StoreRegisters := by
  intro x s hm
  refine ⟨_, rfl, exec_frame (i := .ldMemVx x) rfl, fun k hk => ?_, fun a ha => ?_⟩
  · exact State.readByte_storeRegs s _ hm (nodup_regsUpTo x) k ((mem_regsUpTo x k).mpr hk)
  · exact State.readByte_storeRegs_other s _ hm a fun k hk => ha k ((mem_regsUpTo x k).mp hk)

/-- Settles O44: the loads of V[0] to V[x]; no load changes an address or a byte. -/
theorem loadRegisters : Obligations.LoadRegisters := by
  intro x s
  refine ⟨_, rfl, exec_frame (i := .ldVxMem x) rfl, fun r => ?_⟩
  simp only [State.getV_loadRegs, mem_regsUpTo]

/-- Settles O45: the load reads from the addresses and the memory that the store left. -/
theorem storeThenLoadRestoresRegisters : Obligations.StoreThenLoadRestoresRegisters := by
  intro x s t u hm hstore hregs
  obtain ⟨t', hstore', hframe, hbytes, _⟩ := storeRegisters x s hm
  cases hstore.symm.trans hstore'
  obtain ⟨w, hload, _, hw⟩ := loadRegisters x u
  have hi : u.i = s.i := (hregs .index (by simp)).trans (hframe .index (by simp))
  refine ⟨w, hload, fun r hr => ?_⟩
  calc w.getV r = u.readByte (u.ea r.val) := (hw r).trans (if_pos hr)
    _ = t.readByte (u.ea r.val) := hregs .memory (by simp) _
    _ = t.readByte (s.ea r.val) := by rw [State.ea, State.ea, hi]
    _ = s.getV r := hbytes r hr

/-- Settles O46: the next tick reads the word at EA(0) and EA(1), where the store put V[0] and V[1]. -/
theorem nextFetchSeesTheStore : Obligations.NextFetchSeesTheStore := by
  intro s x hs hm hd hx hpc hea
  obtain ⟨u, hux, hframe, hbytes, _⟩ := storeRegisters x s.executing hm
  obtain ⟨hstep, _⟩ := step_instr_latch hs hd hux hframe (by simp)
  have hupc : u.latchKeys.pc.toNat = s.pc.toNat + 2 := by
    obtain ⟨_, hadv, _⟩ := hs.executing
    rw [State.latchKeys_pc, hframe .pc (by simp), hadv]
  have hlt := s.pc.isLt
  rw [State.ea_toNat] at hea
  have hea0 : BitVec.ofNat 12 u.latchKeys.pc.toNat = s.executing.ea 0 := by
    apply BitVec.eq_of_toNat_eq
    rw [State.ea_toNat, BitVec.toNat_ofNat, hupc]
    show _ = (s.i.toNat + 0) % 4096
    omega
  have hea1 : BitVec.ofNat 12 (u.latchKeys.pc.toNat + 1) = s.executing.ea 1 := by
    apply BitVec.eq_of_toNat_eq
    rw [State.ea_toNat, BitVec.toNat_ofNat, hupc]
    show _ = (s.i.toNat + 1) % 4096
    omega
  refine ⟨_, hstep, ?_⟩
  rw [State.fetch_some (by omega), State.readWord_eq, hea0, hea1]
  have h0 : u.readByte (s.executing.ea 0) = s.getV 0 := hbytes 0 (Fin.zero_le x)
  have h1 : u.readByte (s.executing.ea 1) = s.getV 1 := hbytes 1 hx
  exact congrArg some (congrArg₂ wordOfBytes h0 h1)

end Sys2Proof.Machine
end

section
/-! PROOFS. The statements of 44_display.md and 45_keypad_timers.md: drawing a sprite, the key skips, the wait for a key. -/

namespace Sys2Proof.Machine

/-! ### Drawing (44_display.md §2) -/

/-- The cells DRW draws are the pixels its sprite covers (R171 to R173). -/
theorem mem_spriteCells_iff_covers (s : State) (x y : Reg) (n : Fin 16) (px : Fin 64) (py : Fin 32) :
    (px, py) ∈ s.spriteCells (s.drawColumn x) (s.drawRow y) n.val ↔ SpriteCovers s x y n px py := by
  have hea (r : Nat) : BitVec.ofNat 12 ((s.i.toNat + r) % 4096) = s.ea r := by
    apply BitVec.eq_of_toNat_eq
    rw [BitVec.toNat_ofNat, State.ea_toNat, Nat.mod_mod]
  rw [State.mem_spriteCells]
  simp only [SpriteCovers, hea, State.drawColumn, State.drawRow, spriteBit, exists_and_left]

/-- A drawn display: every covered pixel is flipped, every other one is as before. -/
theorem pixel_drawSprite (s : State) (x y : Reg) (n : Fin 16) (px : Fin 64) (py : Fin 32) :
    (s.drawSprite x y n).1.pixel px py ≠ s.disp.pixel px py ↔ SpriteCovers s x y n px py := by
  rw [State.drawSprite, pixel_drawCells _ _ (s.nodup_spriteCells _ _ _), ← mem_spriteCells_iff_covers]
  split <;> simp [*]

/-- The collision bit: some covered pixel was on (R174). -/
theorem collision_drawSprite (s : State) (x y : Reg) (n : Fin 16) :
    (s.drawSprite x y n).2 = true ↔ ∃ px py, SpriteCovers s x y n px py ∧ s.disp.pixel px py = true := by
  rw [State.drawSprite, collision_drawCells _ _ (s.nodup_spriteCells _ _ _), List.any_eq_true, Prod.exists]
  simp only [mem_spriteCells_iff_covers]

/-- Settles O48: the flipped display, and the collision bit as the byte of VF. -/
theorem drawFlipsTheSprite : Obligations.DrawFlipsTheSprite := by
  intro x y n s
  refine ⟨_, rfl, (exec_frame (i := .drw x y n) rfl).mono (by simp [piecesWritten]), pixel_drawSprite s x y n,
    fun r hr => ?_, fun hon => ?_, fun hoff => ?_⟩
  · exact (State.getV_setVF _ r _).trans (if_neg hr)
  · rw [State.getV_setVF, if_pos rfl, (collision_drawSprite s x y n).mpr hon]
    rfl
  · have hnone : (s.drawSprite x y n).2 = false := by
      rw [Bool.eq_false_iff, ne_eq, collision_drawSprite]
      rintro ⟨px, py, hcov, hon⟩
      exact Bool.false_ne_true ((hoff px py hcov).symm.trans hon)
    rw [State.getV_setVF, if_pos rfl, hnone]
    rfl

/-- The pixels a sprite covers depend on I, memory, and the place alone. -/
theorem SpriteCovers.congr {s t : State} {x y : Reg} (hi : t.i = s.i) (hm : ∀ a, t.readByte a = s.readByte a)
    (hx : (t.getV x).toNat % 64 = (s.getV x).toNat % 64) (hy : (t.getV y).toNat % 32 = (s.getV y).toNat % 32)
    (n : Fin 16) (px : Fin 64) (py : Fin 32) : SpriteCovers t x y n px py ↔ SpriteCovers s x y n px py := by
  simp only [SpriteCovers, hi, hm, hx, hy]

/-- Settles O49: both draws flip the same pixels, and a covered pixel is on before the second exactly where it was off. -/
theorem drawTwiceRestoresTheDisplay : Obligations.DrawTwiceRestoresTheDisplay := by
  intro x y n s t hdraw hx hy
  obtain ⟨t', hdraw', hframe, hflip, _⟩ := drawFlipsTheSprite x y n s
  cases hdraw.symm.trans hdraw'
  have hcov := SpriteCovers.congr (hframe .index (by simp)) (hframe .memory (by simp)) hx hy n
  obtain ⟨u, hdraw2, _, hflip2, _, hon, hoff⟩ := drawFlipsTheSprite x y n t
  simp only [hcov] at hflip2 hon hoff
  have hneg (px : Fin 64) (py : Fin 32) (hc : SpriteCovers s x y n px py) :
      t.disp.pixel px py = !s.disp.pixel px py := Bool.eq_not.mpr ((hflip px py).mpr hc)
  refine ⟨u, hdraw2, fun px py => ?_, fun hvf => ?_, fun ⟨px, py, hc, hpx⟩ => ?_⟩
  · by_cases hc : SpriteCovers s x y n px py
    · rw [Bool.eq_not.mpr ((hflip2 px py).mpr hc), hneg px py hc, Bool.not_not]
    · rw [not_not.mp (mt (hflip2 px py).mp hc), not_not.mp (mt (hflip px py).mp hc)]
  · by_contra hno
    have hzero : u.getV 15 = 0 := hoff fun px py hc => by
      rw [hneg px py hc, Bool.not_eq_false', ← Bool.not_eq_false]
      exact fun hpx => hno ⟨px, py, hc, hpx⟩
    rw [hvf] at hzero
    exact absurd hzero (by decide)
  · exact hon ⟨px, py, hc, by rw [hneg px py hc, hpx]; rfl⟩

/-! ### Keys (45_keypad_timers.md §1, §2) -/

/-- Settles O50: the key of the low nibble is k, so both are conditional skips on it. -/
theorem keySkips : Obligations.KeySkips := by
  intro x s k hk
  have hkey : lowNibble (s.getV x) = k := Fin.ext ((lowNibble_val _).trans hk)
  have hdown : s.keyDown (lowNibble (s.getV x)) = s.keys[k.val] := by rw [hkey, State.keyDown]
  obtain ⟨hskpFrame, hskpPc⟩ := s.skipIf_spec (s.keyDown (lowNibble (s.getV x)))
  obtain ⟨hsknpFrame, hsknpPc⟩ := s.skipIf_spec (!s.keyDown (lowNibble (s.getV x)))
  refine ⟨⟨_, rfl, hskpFrame, ?_⟩, _, rfl, hsknpFrame, ?_⟩
  · rw [hskpPc, hdown]
  · rw [hsknpPc, hdown]
    cases s.keys[k.val] <;> rfl

/-- The model's press test is the spec's transition (R194). -/
theorem pressed_iff (s : State) (k : Fin 16) : s.pressed k = true ↔ PressTransition s k := by
  simp [State.pressed, PressTransition]

/-- FX0A finds the key with a transition below which there is none. -/
theorem firstPress_eq_some {s : State} {k : Fin 16} (hk : PressTransition s k)
    (hlow : ∀ j, j < k → ¬PressTransition s j) : s.firstPress = some k := by
  cases hfirst : s.firstPress with
  | none =>
    have hoff := State.firstPress_none.mp hfirst k
    rw [(pressed_iff s k).mpr hk] at hoff
    cases hoff
  | some j =>
    obtain ⟨hj, hjlow⟩ := State.firstPress_some hfirst
    have hge : ¬j < k := fun hlt => hlow j hlt ((pressed_iff s j).mp hj)
    have hle : ¬k < j := fun hlt => Bool.false_ne_true ((hjlow k hlt).symm.trans ((pressed_iff s k).mpr hk))
    rw [le_antisymm (not_lt.mp hle) (not_lt.mp hge)]

/-- FX0A waits where no key has a transition. -/
theorem firstPress_eq_none {s : State} (h : ∀ k, ¬PressTransition s k) : s.firstPress = none :=
  State.firstPress_none.mpr fun k => Bool.eq_false_iff.mpr (mt (pressed_iff s k).mp (h k))

/-- Settles O51: the two cases of `firstPress`. -/
theorem waitForKeyPress : Obligations.WaitForKeyPress := by
  intro x s
  obtain ⟨k, hfirst, hx⟩ | ⟨hfirst, hx⟩ := execLdVxK_cases x s
  · refine ⟨_, hx, fun j hj hlow => ?_, fun hno => ?_⟩
    · cases hfirst.symm.trans (firstPress_eq_some hj hlow)
      refine ⟨OnlyChanges.setV s x _, fun r => ?_⟩
      have hbyte : (BitVec.ofNat 8 k.val).toNat = k.val := by
        rw [BitVec.toNat_ofNat]; omega
      rw [State.getV_setV]
      split
      · exact hbyte
      · rfl
    · cases hfirst.symm.trans (firstPress_eq_none hno)
  · refine ⟨_, hx, fun j hj hlow => ?_, fun _ => ⟨OnlyChanges.setPc s _, rfl⟩⟩
    cases hfirst.symm.trans (firstPress_eq_some hj hlow)

/-- Settles O52: the stay takes back the advance of PC. -/
theorem keyWaitStaysAtItsInstruction : Obligations.KeyWaitStaysAtItsInstruction := by
  intro s x hs hd hno
  obtain ⟨u, hux, _, hwait⟩ := waitForKeyPress x s.executing
  obtain ⟨huframe, hupc⟩ := hwait hno
  obtain ⟨hstep, _⟩ := step_instr_latch hs hd hux huframe (by simp)
  have hframe : OnlyChanges [.calls, .pc, .keysSeen] s u.latchKeys :=
    (((OnlyChanges.executing s).append huframe).append (OnlyChanges.latchKeys u)).mono (by simp)
  have hpc : SamePiece s u.latchKeys .pc := hupc.trans s.executing_instrAddr
  exact ⟨_, hstep, hframe.narrow (by simp [hpc]), huframe .keys (by simp)⟩

end Sys2Proof.Machine
end

section
/-! PROOFS. The statements about the host's calls and reads: the timers, the keys, loading a program, the display view, the
fault status, and the end of a run (60_exceptions.md §4, §6; 70_reset_and_hazards.md §2, §3). -/

namespace Sys2Proof.Machine

/-! ### The timers and the keys -/

theorem decremented_toNat (b : Byte) : (decremented b).toNat = b.toNat - 1 := by
  unfold decremented
  split
  · next h => rw [h]; rfl
  · next h =>
    have hpos : b.toNat ≠ 0 := fun h0 => h (BitVec.eq_of_toNat_eq h0)
    have hlt := b.isLt
    rw [BitVec.toNat_sub, show (1 : Byte).toNat = 1 from rfl]
    omega

/-- Settles O54: by induction on the number of calls, each of which takes 1 from a timer above 0. -/
theorem decrementTimersStopsAtZero : Obligations.DecrementTimersStopsAtZero := by
  intro n
  induction n with
  | zero => exact fun s rest h => ⟨s, rfl, OnlyChanges.refl _ s, h, rfl, rfl⟩
  | succ n ih =>
    intro s rest h
    have hstep : step s = .next s.dropCall.decrementTimers := step_call_cons h
    have hframe : OnlyChanges [.delayTimer, .soundTimer, .calls] s s.dropCall.decrementTimers :=
      ((OnlyChanges.dropCall s).append (OnlyChanges.decrementTimers _)).mono (by simp)
    obtain ⟨t, hrun, hrest, hcalls, hdt, hst⟩ :=
      ih s.dropCall.decrementTimers rest (State.dropCall_calls_cons h)
    refine ⟨t, (run_next n hstep).trans hrun, hframe.trans hrest, hcalls, ?_, ?_⟩
    · rw [hdt, State.decrementTimers_dt, decremented_toNat, State.dropCall_dt]
      omega
    · rw [hst, State.decrementTimers_st, decremented_toNat, State.dropCall_st]
      omega

/-- Settles O55: the step is `setKeys` of the state without the call. -/
theorem setKeysReplacesTheSnapshot : Obligations.SetKeysReplacesTheSnapshot := by
  intro s k rest h
  refine ⟨s.dropCall.setKeys k, step_call_cons h, ?_, rfl, State.dropCall_calls_cons h⟩
  exact ((OnlyChanges.dropCall s).append (OnlyChanges.setKeys _ k)).mono (by simp)

/-! ### Loading a program -/

/-- A program of at most 3584 bytes is copied (R253). -/
theorem State.loadProgram_ok (s : State) {bytes : List Byte} (h : bytes.length ≤ 3584) :
    s.loadProgram bytes =
      (.ok, { s with mem := Memory.writeBytes s.cfg.font s.mem 0x200 bytes, pc := 0x200#16 }) := by
  obtain ⟨_, hload⟩ | ⟨hlong, _⟩ := s.loadProgram_cases bytes
  · exact hload
  · omega

/-- A larger one is refused and changes nothing (R254). -/
theorem State.loadProgram_tooLarge (s : State) {bytes : List Byte} (h : 3584 < bytes.length) :
    s.loadProgram bytes = (.loadError, s) := by
  obtain ⟨hshort, _⟩ | ⟨_, hload⟩ := s.loadProgram_cases bytes
  · omega
  · exact hload

/-- Settles O56: the image ends at 0x200 + 3584 = 0x1000 at most, so every byte of it is stored. -/
theorem loadProgramCopiesTheImage : Obligations.LoadProgramCopiesTheImage := by
  intro s bytes rest h hlen hm
  have hframe : OnlyChanges [.memory, .pc, .calls] s (s.dropCall.loadProgram bytes).2 :=
    ((OnlyChanges.dropCall s).append (OnlyChanges.loadProgram _ bytes)).mono (by simp)
  refine ⟨by rw [s.loadProgram_ok hlen], _, step_call_cons h, hframe, ?_⟩
  rw [s.dropCall.loadProgram_ok hlen]
  exact ⟨rfl, State.dropCall_calls_cons h,
    fun a => Memory.read_writeBytes s.cfg.font bytes s.mem 0x200 a.toNat (by omega) hm⟩

/-- Settles O57: the answer is LoadError and the step only takes the call. -/
theorem loadErrorChangesNothing : Obligations.LoadErrorChangesNothing := by
  intro s bytes rest h hlen
  refine ⟨by rw [s.loadProgram_tooLarge hlen], s.dropCall, ?_, OnlyChanges.dropCall s, State.dropCall_calls_cons h⟩
  rw [step_call_cons h, perform, s.dropCall.loadProgram_tooLarge hlen]

/-! ### The host's reads -/

/-- The display view is the rows of the display in one list. -/
theorem State.displayView_eq_flatten (s : State) : s.displayView = s.disp.flatten.toList := by
  show _ = (s.disp.toArray.map Vector.toArray).flatten.toList
  rw [Array.toList_flatten, Array.toList_map, List.map_map]
  rfl

/-- Index 64 y + x of the view is the pixel at column x, row y (R35). -/
theorem State.displayView_getElem (s : State) (x : Fin 64) (y : Fin 32) :
    s.displayView[y.val * 64 + x.val]? = some (s.disp.pixel x y) := by
  have hlt : y.val * 64 + x.val < 32 * 64 := by omega
  have hrow : (y.val * 64 + x.val) / 64 = y.val := by omega
  have hcol : (y.val * 64 + x.val) % 64 = x.val := by omega
  rw [State.displayView_eq_flatten, List.getElem?_eq_getElem (by simpa using hlt), Vector.getElem_toList,
    Vector.getElem_flatten hlt]
  simp only [hrow, hcol, Display.pixel]

/-- Settles O58: each read, from its definition; the codes of the three kinds are above 0. -/
theorem hostReads : Obligations.HostReads := by
  intro s
  refine ⟨by simp [State.displayView_eq_flatten], s.displayView_getElem, s.soundTimerActive_iff, ?_,
    fun a h => by rw [State.faultStatus, h]; rfl, fun a h => by rw [State.faultStatus, h]; rfl,
    fun a h => by rw [State.faultStatus, h]; rfl⟩
  cases h : s.fault with
  | none => simp [State.faultStatus, h]
  | some f => obtain ⟨kind, a⟩ := f; cases kind <;> simp [State.faultStatus, h, FaultKind.code]

/-! ### The end of a run (70_reset_and_hazards.md §3) -/

/-- A run is finished exactly where an unfaulted engine stands on a jump to itself (R256). -/
theorem State.runStatus_finished (s : State) :
    s.runStatus = .finished ↔
      s.fault = none ∧ s.pc.toNat + 1 ≤ 0xFFF ∧ opGroup (s.readWord s.pc) = 1 ∧
        zext16 (opNNN (s.readWord s.pc)) = s.pc := by
  unfold State.runStatus
  cases hfault : s.fault with
  | some f => simp
  | none =>
    by_cases hpc : s.pc.toNat + 1 ≤ 0xFFF
    · simp [State.fetch_some hpc, hpc]
    · have hnone : s.fetch = none := State.fetch_none.mpr (by omega)
      simp [hnone, hpc]

/-- Settles O59: the jump sets PC to where it was, so the same word is fetched again. -/
theorem finishedRunStays : Obligations.FinishedRunStays := by
  intro s hfin hcall
  obtain ⟨hfault, hpc, hgroup, hself⟩ := s.runStatus_finished.mp hfin
  have hs : CanFetch s := ⟨hcall, hfault, hpc⟩
  have hd : decode (s.readWord s.pc) = .variant (.jp (opNNN (s.readWord s.pc))) := by simp only [decode, hgroup]
  obtain ⟨hstep, hufault⟩ := step_instr_latch hs hd rfl (OnlyChanges.setPc s.executing _) (by simp)
  rw [hself] at hstep hufault
  have hwide : OnlyChanges [.calls, .pc, .keysSeen] s (s.executing.setPc s.pc).latchKeys :=
    (((OnlyChanges.executing s).append (OnlyChanges.setPc _ s.pc)).append (OnlyChanges.latchKeys _)).mono (by simp)
  have hsame : SamePiece s (s.executing.setPc s.pc).latchKeys .pc := rfl
  refine ⟨_, hstep, hwide.narrow (by simp [hsame]), (State.runStatus_finished _).mpr ⟨hufault, hpc, ?_⟩⟩
  rw [hwide.readWord (by simp)]
  exact ⟨hgroup, hself⟩

end Sys2Proof.Machine
end
